-- ==== Sys2Proof/Word.lean ====
section
/-! DEFINITION. The numbers of the block (00_scope.md R9): a byte is 8 bits, a word 16 bits, both unsigned. -/

namespace Sys2Proof

/-- 8 bits, an unsigned integer 0 to 255 (R9). -/
abbrev Byte := BitVec 8

/-- 16 bits, an unsigned integer 0 to 65535 (R9). -/
abbrev Word := BitVec 16

end Sys2Proof
end

