-- ==== Sys2Proof/Syntax.lean ====
section
/-! DEFINITION. The sixteen rows of spec/opcode_table.json as one inductive, and the small enumerations they use. -/

namespace Sys2Proof

/-- The telemetry layout an inverter uses: command bit 12 (30_encoding.md R79, 42_telemetry.md R169). -/
inductive Variant where
  /-- single-phase, bit value 0 -/
  | single
  /-- three-phase, bit value 1 -/
  | three
deriving DecidableEq, Repr

/-- The eight frame kinds of 30_encoding.md R90 to R97. -/
inductive FrameKind where
  | unknown
  | discovery
  | regRequest
  | addrAssign
  | addrConfirm
  | remove
  | infoRequest
  | infoResponse
deriving DecidableEq, Repr

/-- The two formats of the opcode table: the command word (30_encoding.md R79) and the control/function pair of a wire frame,
control in bits 15:8 and function in bits 7:0 (section 5 of that file). -/
inductive Format where
  | cmd16
  | frameCf
deriving DecidableEq, Repr

/-- One constructor per row of spec/opcode_table.json. -/
inductive Instr where
  /-- `TIME_CHECK` (R138): evaluate the timeout with no byte. -/
  | timeCheck
  /-- `RX_BYTE` (R137): consume the received byte `cmd[7:0]`. -/
  | rxByte (b : Byte)
  /-- `RESET` (R139). -/
  | reset
  /-- `ENCODE` (R102). -/
  | encode
  /-- `VALIDATE` (R104). -/
  | validate
  /-- `TELEM_DECODE` (R160), the variant from `cmd[12]`. -/
  | telemDecode (v : Variant)
  /-- `FRAME.DISCOVERY` (R90). -/
  | frameDiscovery
  /-- `FRAME.REG_REQUEST` (R91). -/
  | frameRegRequest
  /-- `FRAME.ADDR_ASSIGN` (R92). -/
  | frameAddrAssign
  /-- `FRAME.ADDR_CONFIRM` (R93). -/
  | frameAddrConfirm
  /-- `FRAME.REMOVE` (R94). -/
  | frameRemove
  /-- `FRAME.INFO_REQUEST` (R95). -/
  | frameInfoRequest
  /-- `FRAME.INFO_RESPONSE` (R96). -/
  | frameInfoResponse
  /-- `FRAME.UNKNOWN` (R97): a pair that is none of the seven above. -/
  | frameUnknown (control function : Byte)
  /-- `RESERVED_OP110` (R82): bits 12:0 are free. -/
  | reservedOp110 (x : BitVec 13)
  /-- `RESERVED_OP111` (R82): bits 12:0 are free. -/
  | reservedOp111 (x : BitVec 13)
deriving DecidableEq, Repr

/-- Why a command word of one of the six operations is refused: items 2 to 4 of 30_encoding.md R82. -/
inductive WordError where
  /-- item 2: `res ≠ 0` -/
  | reservedBits
  /-- item 3: `op ≠ 101` and `v ≠ 0` -/
  | variantBit
  /-- item 4: `op ≠ 001` and `imm ≠ 0` -/
  | immediateBits
deriving DecidableEq, Repr

end Sys2Proof
end

