-- ==== Sys2Proof/WellFormed.lean ====
section
/-! DEFINITION. Which terms of `Instr` are instructions of the table. Every field is as wide as its encoding, so the one
check is FRAME.UNKNOWN's: its pair is none of the seven recognised pairs (30_encoding.md R97). -/

namespace Sys2Proof

/-- The seven recognised (control, function) pairs (30_encoding.md R90 to R96). -/
def recognisedPairs : List (Byte × Byte) :=
  [(0x00#8, 0x00#8), (0x00#8, 0x80#8), (0x00#8, 0x01#8), (0x00#8, 0x81#8), (0x00#8, 0x02#8), (0x01#8, 0x01#8),
    (0x01#8, 0x81#8)]

/-- The term stands for words of the table. -/
def Instr.wellFormed : Instr → Bool
  | .frameUnknown control function => !recognisedPairs.contains (control, function)
  | .timeCheck | .rxByte _ | .reset | .encode | .validate | .telemDecode _ => true
  | .frameDiscovery | .frameRegRequest | .frameAddrAssign | .frameAddrConfirm => true
  | .frameRemove | .frameInfoRequest | .frameInfoResponse => true
  | .reservedOp110 _ | .reservedOp111 _ => true

end Sys2Proof
end

