-- ==== Sys2Proof/Decode.lean ====
section
/-! DEFINITION. The two decoders (the command word, 30_encoding.md R79 to R83; the control/function pair of a frame, R90 to R97
with 40_codec.md R105) and, after them, the encoder. Both are total; the command decoder rejects by name. -/

namespace Sys2Proof

/-- `op`: command word bits 15:13 (R79). -/
def cmdOp (w : Word) : BitVec 3 := w.extractLsb' 13 3

/-- `v`: command word bit 12 (R79). -/
def cmdV (w : Word) : BitVec 1 := w.extractLsb' 12 1

/-- `res`: command word bits 11:8 (R79). -/
def cmdRes (w : Word) : BitVec 4 := w.extractLsb' 8 4

/-- `imm`: command word bits 7:0 (R79, R83). -/
def cmdImm (w : Word) : Byte := w.extractLsb' 0 8

/-- Bits 12:0, the free bits of a reserved row (R80). -/
def cmdFree (w : Word) : BitVec 13 := w.extractLsb' 0 13

/-- The variant a value of bit 12 selects: 0 single-phase, 1 three-phase (R79, R83). -/
def variantOfBit (v : BitVec 1) : Variant := if v = 0#1 then .single else .three

/-- The command decoder (R80, R82): a reserved op is its row; then `res`, `v` and `imm` are checked in the order R82 lists them
(which of several broken rules is named is the model's choice, log 13). -/
def decodeCommand (w : Word) : Except WordError Instr :=
  if cmdOp w = 0b110#3 then .ok (.reservedOp110 (cmdFree w))
  else if cmdOp w = 0b111#3 then .ok (.reservedOp111 (cmdFree w))
  else if cmdRes w ≠ 0#4 then .error .reservedBits
  else if cmdOp w = 0b101#3 then
    if cmdImm w ≠ 0#8 then .error .immediateBits else .ok (.telemDecode (variantOfBit (cmdV w)))
  else if cmdV w ≠ 0#1 then .error .variantBit
  else if cmdOp w = 0b001#3 then .ok (.rxByte (cmdImm w))
  else if cmdImm w ≠ 0#8 then .error .immediateBits
  else if cmdOp w = 0b000#3 then .ok .timeCheck
  else if cmdOp w = 0b010#3 then .ok .reset
  else if cmdOp w = 0b011#3 then .ok .encode
  else .ok .validate

/-- `CLASSIFY(c, f)`: total, by exact pair only (40_codec.md R105; 30_encoding.md R97, R98). -/
def classify (control function : Byte) : FrameKind :=
  if control = 0x00#8 ∧ function = 0x00#8 then .discovery
  else if control = 0x00#8 ∧ function = 0x80#8 then .regRequest
  else if control = 0x00#8 ∧ function = 0x01#8 then .addrAssign
  else if control = 0x00#8 ∧ function = 0x81#8 then .addrConfirm
  else if control = 0x00#8 ∧ function = 0x02#8 then .remove
  else if control = 0x01#8 ∧ function = 0x01#8 then .infoRequest
  else if control = 0x01#8 ∧ function = 0x81#8 then .infoResponse
  else .unknown

/-- The FRAME row that a frame's control and function bytes select (40_codec.md R105). -/
def decodeFrame (control function : Byte) : Instr :=
  match classify control function with
  | .discovery => .frameDiscovery
  | .regRequest => .frameRegRequest
  | .addrAssign => .frameAddrAssign
  | .addrConfirm => .frameAddrConfirm
  | .remove => .frameRemove
  | .infoRequest => .frameInfoRequest
  | .infoResponse => .frameInfoResponse
  | .unknown => .frameUnknown control function

/-- The 3-bit code of a frame kind (40_codec.md R105). -/
def FrameKind.code : FrameKind → BitVec 3
  | .unknown => 0#3
  | .discovery => 1#3
  | .regRequest => 2#3
  | .addrAssign => 3#3
  | .addrConfirm => 4#3
  | .remove => 5#3
  | .infoRequest => 6#3
  | .infoResponse => 7#3

/-- A word read in one of the table's two formats. -/
def decodeAs (f : Format) (w : Word) : Except WordError Instr :=
  match f with
  | .cmd16 => decodeCommand w
  | .frameCf => .ok (decodeFrame (w.extractLsb' 8 8) (w.extractLsb' 0 8))

/-- A word of the opcode table read as the table reads it: the command rows first, and a word that no command row takes by the
FRAME rows (log 6: the table numbers the two formats alike). -/
def decodeTable (w : Word) : Instr :=
  match decodeCommand w with
  | .ok i => i
  | .error _ => decodeFrame (w.extractLsb' 8 8) (w.extractLsb' 0 8)

/-- The host's entry to the decoder: every instruction is one 16-bit word. -/
def decodeTableWord (nbits w : Nat) : Option Instr :=
  if nbits = 16 ∧ w < 65536 then some (decodeTable (BitVec.ofNat 16 w)) else none

/-- The value of bit 12 that selects a variant (R79). -/
def Variant.bit : Variant → BitVec 1
  | .single => 0#1
  | .three => 1#1

/-- The format of an instruction's row in the table. -/
def Instr.format : Instr → Format
  | .timeCheck | .rxByte _ | .reset | .encode | .validate | .telemDecode _ => .cmd16
  | .reservedOp110 _ | .reservedOp111 _ => .cmd16
  | .frameDiscovery | .frameRegRequest | .frameAddrAssign | .frameAddrConfirm => .frameCf
  | .frameRemove | .frameInfoRequest | .frameInfoResponse | .frameUnknown _ _ => .frameCf

/-- A command word from its four fields (R79). -/
def commandWord (op : BitVec 3) (v : BitVec 1) (imm : Byte) : Word := op ++ v ++ 0#4 ++ imm

/-- The word of an instruction (R80 for the command rows; control then function for the FRAME rows, R90 to R97). -/
def encode : Instr → Word
  | .timeCheck => commandWord 0b000#3 0#1 0#8
  | .rxByte b => commandWord 0b001#3 0#1 b
  | .reset => commandWord 0b010#3 0#1 0#8
  | .encode => commandWord 0b011#3 0#1 0#8
  | .validate => commandWord 0b100#3 0#1 0#8
  | .telemDecode v => commandWord 0b101#3 v.bit 0#8
  | .frameDiscovery => 0x00#8 ++ 0x00#8
  | .frameRegRequest => 0x00#8 ++ 0x80#8
  | .frameAddrAssign => 0x00#8 ++ 0x01#8
  | .frameAddrConfirm => 0x00#8 ++ 0x81#8
  | .frameRemove => 0x00#8 ++ 0x02#8
  | .frameInfoRequest => 0x01#8 ++ 0x01#8
  | .frameInfoResponse => 0x01#8 ++ 0x81#8
  | .frameUnknown control function => control ++ function
  | .reservedOp110 x => 0b110#3 ++ x
  | .reservedOp111 x => 0b111#3 ++ x

/-- The `mask` of an instruction's row: a word is the row's when `word & mask = match` (R80; spec/opcode_table.json). -/
def Instr.rowMask : Instr → Word
  | .timeCheck | .reset | .encode | .validate => 0xFFFF#16
  | .rxByte _ => 0xFF00#16
  | .telemDecode _ => 0xEFFF#16
  | .frameDiscovery | .frameRegRequest | .frameAddrAssign | .frameAddrConfirm => 0xFFFF#16
  | .frameRemove | .frameInfoRequest | .frameInfoResponse => 0xFFFF#16
  | .frameUnknown _ _ => 0x0000#16
  | .reservedOp110 _ | .reservedOp111 _ => 0xE000#16

/-- The `match` of an instruction's row (R80; spec/opcode_table.json). -/
def Instr.rowMatch : Instr → Word
  | .timeCheck => 0x0000#16
  | .rxByte _ => 0x2000#16
  | .reset => 0x4000#16
  | .encode => 0x6000#16
  | .validate => 0x8000#16
  | .telemDecode _ => 0xA000#16
  | .frameDiscovery => 0x0000#16
  | .frameRegRequest => 0x0080#16
  | .frameAddrAssign => 0x0001#16
  | .frameAddrConfirm => 0x0081#16
  | .frameRemove => 0x0002#16
  | .frameInfoRequest => 0x0101#16
  | .frameInfoResponse => 0x0181#16
  | .frameUnknown _ _ => 0x0000#16
  | .reservedOp110 _ => 0xC000#16
  | .reservedOp111 _ => 0xE000#16

end Sys2Proof
end

