-- ==== Sys2Proof/Config.lean ====
section
/-! DEFINITION. The parameters of 00_scope.md R6, the constants the wire format fixes, and the one value the spec leaves OPEN. -/

namespace Sys2Proof

/-- The implementation parameters of R6 that a model may vary. They are fixed before reset and never change while the block
runs (10_state.md R30, 70_reset_and_hazards.md R232). -/
structure Params where
  /-- `RX_TIMEOUT_MS`: byte-gap timeout of the synchronizer. -/
  rxTimeoutMs : Nat
  /-- `MAX_DATA_LEN`: largest accepted `dataLength`. -/
  maxDataLen : Nat
  /-- `BUF_CAP`: accumulation buffer capacity in bytes. -/
  bufCap : Nat
  /-- `HOST_ADDR`: the codec's own address. No operation reads it (30_encoding.md R73, 40_codec.md R103). -/
  hostAddr : Byte
  /-- `BCAST_ADDR`: broadcast address. No operation reads it (30_encoding.md R73). -/
  bcastAddr : Byte
  /-- `MIN_TELEM_LEN`: smallest payload the telemetry decoder accepts. -/
  minTelemLen : Nat
  /-- `SKIP_S`: undecoded bytes after work mode, single-phase. -/
  skipS : Nat
  /-- `SKIP_T`: undecoded bytes after work mode, three-phase. -/
  skipT : Nat
  /-- `SCALE_V`: divisor of voltages. -/
  scaleV : Nat
  /-- `SCALE_I`: divisor of currents. -/
  scaleI : Nat
  /-- `SCALE_TEMP`: divisor of the temperature. -/
  scaleTemp : Nat
  /-- `SCALE_F`: divisor of frequencies. -/
  scaleF : Nat
  /-- `SCALE_P`: divisor of the AC power. -/
  scaleP : Nat
  /-- `SCALE_WM`: divisor of the work mode. -/
  scaleWm : Nat
  /-- `EDAY_SCALE`: divisor of the cumulative daily energy (OPEN, D19). -/
  edayScale : Nat
  /-- `TIME_BITS`: width of the time input and of `tLast`. -/
  timeBits : Nat
  /-- `BAUD`: line rate of the transport, informative only (R240). -/
  baud : Nat
deriving DecidableEq, Repr

/-- The constraints R6 puts on the parameters. -/
abbrev Params.Valid (p : Params) : Prop :=
  p.maxDataLen ≤ 255 ∧ p.maxDataLen + 9 ≤ p.bufCap ∧ p.rxTimeoutMs < 2 ^ p.timeBits ∧ p.minTelemLen ≤ 255 ∧
    1 ≤ p.scaleV ∧ 1 ≤ p.scaleI ∧ 1 ≤ p.scaleTemp ∧ 1 ≤ p.scaleF ∧ 1 ≤ p.scaleP ∧ 1 ≤ p.scaleWm ∧ 1 ≤ p.edayScale

namespace Config

/-- `MARK0`, fixed by the wire format (R6). -/
def mark0 : Byte := 0xAA#8

/-- `MARK1`, fixed by the wire format (R6). -/
def mark1 : Byte := 0x55#8

/-- `HDR_LEN`: header bytes after the marker, fixed (R6). -/
def hdrLen : Nat := 5

/-- `TRL_LEN`: checksum trailer bytes, fixed (R6). -/
def trlLen : Nat := 2

/-- `EDAY_SCALE` less one. The spec gives it no value (D19) but says it is a positive integer: nothing here can be computed
with it (log 3). -/
opaque edayScalePred : Nat

/-- What a byte of `buf` that nothing has written reads as. DESIGN CHOICE (log 5): the spec leaves it unspecified and
unobservable (10_state.md R37, 20_memory.md R64). Unsafe in itself. -/
def bufFill : Byte := 0x00#8

/-- What `tLast` holds at reset. DESIGN CHOICE (log 4): unspecified and unobservable (10_state.md R37). Unsafe in itself. -/
def tLastAtReset : Nat := 0

/-- The default values of R6 (R5: the source's literals), with the OPEN one opaque. -/
def defaults : Params where
  rxTimeoutMs := 500
  maxDataLen := 255
  bufCap := 264
  hostAddr := 0xAB#8
  bcastAddr := 0x7F#8
  minTelemLen := 44
  skipS := 26
  skipT := 34
  scaleV := 10
  scaleI := 10
  scaleTemp := 10
  scaleF := 100
  scaleP := 1
  scaleWm := 1
  edayScale := edayScalePred + 1
  timeBits := 32
  baud := 9600

end Config

end Sys2Proof
end

