-- ==== Sys2Proof/Machine/State.lean ====
section
/-! DEFINITION. State as plain data: the synchronizer record of 10_state.md R20, the parameters, the ports of R33 and R34, the
reasons a step can stop, and the state after reset (R37, R230). -/

namespace Sys2Proof.Machine

/-- The four phases (10_state.md R21). `frameReady` is transient: it is never held between steps. -/
inductive Phase where
  /-- 0 `AWAIT_START`: hunting for the marker. -/
  | awaitStart
  /-- 1 `READ_HEADER`: marker seen, accumulating the five header bytes. -/
  | readHeader
  /-- 2 `READ_BODY`: header complete, accumulating data and checksum. -/
  | readBody
  /-- 3 `FRAME_READY`: the frame is complete. -/
  | frameReady
deriving DecidableEq, Repr

/-- The status and cause codes of 60_exceptions.md R200. -/
inductive Status where
  | ok
  | rxTimeout
  | rxOversize
  | checksumMismatch
  | frameMalformed
  | shortPayload
deriving DecidableEq, Repr

/-- The accumulation buffer: (index, byte) pairs, indices strictly rising, no byte equal to `Config.bufFill`, which an unlisted
index reads as (20_memory.md R50; log 5). `Memory.wf` says the form. -/
abbrev Memory := List Host.Cell

/-- The synchronizer state `st`: exactly the seven fields of 10_state.md R20. -/
structure Receive where
  /-- control state (R21) -/
  phase : Phase
  /-- the accumulation buffer (R22) -/
  buf : Memory
  /-- write cursor: the index of the next byte to be written (R23) -/
  cur : BitVec 9
  /-- bytes still expected in `READ_BODY` (R24) -/
  rem : BitVec 9
  /-- start-marker-detected flag (R25; log 14) -/
  sync : Bool
  /-- previous byte (R26) -/
  prev : Byte
  /-- `now` of the most recent `RX_BYTE`, a `TIME_BITS`-bit number of milliseconds (R27) -/
  tLast : Nat
deriving DecidableEq, Repr

/-- The inputs sampled at a step (10_state.md R33). A byte-vector port is the list of its lines from index 0; lines past the
list's end are 0, so every value of the lines is written down (log 10). -/
structure Ports where
  cmd : Word
  /-- the time input in milliseconds; `TIME_BITS` bits wide (log 11) -/
  now : Nat
  encOrigin : Byte
  encTarget : Byte
  encControl : Byte
  encFunction : Byte
  encLen : Byte
  encData : List Byte
  valLen : BitVec 9
  valFrame : List Byte
  telLen : Byte
  telPayload : List Byte
deriving DecidableEq, Repr

/-- All inputs 0. -/
def Ports.zero : Ports where
  cmd := 0#16
  now := 0
  encOrigin := 0#8
  encTarget := 0#8
  encControl := 0#8
  encFunction := 0#8
  encLen := 0#8
  encData := []
  valLen := 0#9
  valFrame := []
  telLen := 0#8
  telPayload := []

/-- A frame record `fr` (10_state.md R35). -/
structure FrameRecord where
  origin : Byte
  target : Byte
  control : Byte
  function : Byte
  len : Byte
  data : List Byte
  crc : Word
  kind : FrameKind
deriving DecidableEq, Repr

/-- The word fields of a telemetry record (42_telemetry.md R163, R164, R170). -/
inductive TelField where
  | vpv1 | vpv2 | ipv1 | ipv2
  | vac1 | vac2 | vac3
  | iac1 | iac2 | iac3
  | fac1 | fac2 | fac3
  | pac | workMode | temp | eDay
deriving DecidableEq, Repr

/-- A decoded word field: the raw word and the scale, which the block outputs both (92_eei_decisions.md D16, cited by
42_telemetry.md R165; log 24). -/
structure TelWord where
  /-- the big-endian word of the payload (R162) -/
  raw : Word
  /-- the divisor of the field (R163, R164) -/
  scale : Nat
deriving DecidableEq, Repr

/-- A telemetry record `tel_rec` (42_telemetry.md R170). A word field is `some` when its `present` bit is 1 and `none` when it is
0, since `raw` has a meaning only then (log 12). -/
structure TelRecord where
  variant : Variant
  vpv1 : Option TelWord
  vpv2 : Option TelWord
  ipv1 : Option TelWord
  ipv2 : Option TelWord
  vac1 : Option TelWord
  vac2 : Option TelWord
  vac3 : Option TelWord
  iac1 : Option TelWord
  iac2 : Option TelWord
  iac3 : Option TelWord
  fac1 : Option TelWord
  fac2 : Option TelWord
  fac3 : Option TelWord
  pac : Option TelWord
  workMode : Option TelWord
  reserved : List Byte
  temp : Option TelWord
  eDay : Option TelWord
deriving DecidableEq, Repr

/-- `enc_out` and `enc_out_len` (10_state.md R34). -/
structure EncResult where
  out : List Byte
  outLen : BitVec 9
deriving DecidableEq, Repr

/-- `val_status` and `val_fr` (10_state.md R34). -/
structure ValResult where
  status : Status
  fr : Option FrameRecord
deriving DecidableEq, Repr

/-- `tel_status` and `tel_rec` (10_state.md R34). -/
structure TelResult where
  status : Status
  record : Option TelRecord
deriving DecidableEq, Repr

/-- The outputs of one step (10_state.md R34). `kind` is the MODEL's own: what a FRAME row answers (log 6). -/
structure Outputs where
  frame : Option FrameRecord
  diag : Option Status
  enc : Option EncResult
  val : Option ValResult
  tel : Option TelResult
  kind : Option FrameKind
deriving DecidableEq, Repr

/-- A step with no output (10_state.md R34). -/
def Outputs.none : Outputs where
  frame := .none
  diag := .none
  enc := .none
  val := .none
  tel := .none
  kind := .none

/-- The whole machine. `rx` is the spec's state; `params` are its parameters; `ports`, `script` and `out` are the MODEL's own
fields for what the host presents and takes (log 1, log 2, log 7). -/
structure State where
  /-- the parameter values the block runs with; no step changes them -/
  params : Params
  /-- the synchronizer state `st` -/
  rx : Receive
  /-- the inputs sampled by the current step -/
  ports : Ports
  /-- what the host presents at the steps to come, the next step first -/
  script : List Ports
  /-- the outputs of the step that led to this state; the next step replaces them all -/
  out : Outputs
deriving DecidableEq, Repr

/-- Why the machine stops. No behaviour of the spec is a fault (60_exceptions.md R207): both arise only in states that
10_state.md R28 excludes and no step reaches. -/
inductive Fault where
  /-- Raised by `RX_BYTE`: it would store at an index of `BUF_CAP` or more, which does not exist (20_memory.md R50). Safe
  (log 9). -/
  | bufferIndex
  /-- Raised by `RX_BYTE`: the transient phase `FRAME_READY` is held at the start of the byte (10_state.md R21; R137 has no
  case for it). Safe (log 8). -/
  | frameReadyHeld
deriving DecidableEq, Repr

/-- Why there is no step. -/
inductive Refusal where
  /-- Raised by `exec` for an instruction that has no meaning yet. Safe. No arm raises it. -/
  | notModelled (mnemonic : String)
  /-- Raised by `step`: the host has presented nothing, and a step performs exactly one operation (00_scope.md R7). Safe
  (log 1). -/
  | noOperation
  /-- Raised by `step`: a word that 30_encoding.md R82 items 2 to 4 refuse (60_exceptions.md R216). Safe. -/
  | illegalWord (e : WordError)
  /-- Raised by the reserved row 110: 30_encoding.md R82 item 1 (60_exceptions.md R216). Safe (log 18). -/
  | reservedOp110
  /-- Raised by the reserved row 111: 30_encoding.md R82 item 1 (60_exceptions.md R216). Safe (log 18). -/
  | reservedOp111
deriving DecidableEq, Repr

/-- The synchronizer after `RESET` (10_state.md R37). `buf` and `tLast` are unspecified there: log 5 and log 4. -/
def Receive.atReset : Receive where
  phase := .awaitStart
  buf := []
  cur := 0#9
  rem := 0#9
  sync := false
  prev := 0x00#8
  tLast := Config.tLastAtReset

/-- The machine right after reset (10_state.md R37, 70_reset_and_hazards.md R230), with the default parameters (00_scope.md R6)
and a host that has presented nothing (log 1). -/
def State.reset : State where
  params := Config.defaults
  rx := Receive.atReset
  ports := Ports.zero
  script := []
  out := Outputs.none

/-- The state with another synchronizer record. -/
def State.withRx (s : State) (r : Receive) : State := { s with rx := r }

/-- The state with the outputs of the step just done. -/
def State.withOut (s : State) (o : Outputs) : State := { s with out := o }

end Sys2Proof.Machine
end

