-- ==== Sys2Proof/Machine/Ops.lean ====
section
/-! DEFINITION. The named operations every meaning is written over: the buffer, byte order, the checksum, the frame reset, the
timeout test, and abandonment, which is the block's exception entry (60_exceptions.md R208). -/

namespace Sys2Proof.Machine

/-- A reported answer of a meaning. -/
abbrev Outcome := Host.Outcome State Fault Refusal

/-! ### Encodings of the enumerations -/

/-- The 2-bit value of a phase (10_state.md R21). -/
def Phase.code : Phase → BitVec 2
  | .awaitStart => 0#2
  | .readHeader => 1#2
  | .readBody => 2#2
  | .frameReady => 3#2

/-! ### The accumulation buffer (20_memory.md R50) -/

/-- The byte of `buf` at an index. -/
def Memory.read : Memory → Nat → Byte
  | [], _ => Config.bufFill
  | (k, v) :: rest, a => if k = a then v else Memory.read rest a

/-- `buf[a] <- b`, keeping the canonical form. -/
def Memory.write : Memory → Nat → Byte → Memory
  | [], a, b => if b = Config.bufFill then [] else [(a, b)]
  | (k, v) :: rest, a, b =>
    if a < k then
      if b = Config.bufFill then (k, v) :: rest else (a, b) :: (k, v) :: rest
    else if a = k then
      if b = Config.bufFill then rest else (a, b) :: rest
    else (k, v) :: Memory.write rest a b

/-- The canonical form: indices below the capacity and strictly rising, no byte equal to what an unlisted index reads as. -/
def Memory.wf (cap : Nat) : Memory → Bool
  | [] => true
  | (k, v) :: rest =>
    decide (k < cap) && decide (v ≠ Config.bufFill) && rest.all (fun c => decide (k < c.1)) && Memory.wf cap rest

/-- A store of the block: an index past the capacity does not exist (20_memory.md R50). -/
def Memory.store (cap : Nat) (m : Memory) (a : Nat) (b : Byte) : Except Fault Memory :=
  if a < cap then .ok (m.write a b) else .error .bufferIndex

/-- `buf[0 .. n)`. -/
def Memory.prefixBytes (m : Memory) (n : Nat) : List Byte := (List.range n).map m.read

/-! ### Bytes and words (00_scope.md R10) -/

/-- `p[i]` of a byte vector. Every rule reads inside the vector, where the default is not used. -/
def byteAt (p : List Byte) (i : Nat) : Byte := p.getD i 0#8

/-- `be16(p, o)`: the big-endian word at offset `o` (20_memory.md R52). -/
def be16 (p : List Byte) (o : Nat) : Word := byteAt p o ++ byteAt p (o + 1)

/-- `hi8(w)` (00_scope.md R10). -/
def hi8 (w : Word) : Byte := w.extractLsb' 8 8

/-- `lo8(w)` (00_scope.md R10). -/
def lo8 (w : Word) : Byte := w.extractLsb' 0 8

/-- `p[i .. j)` (00_scope.md R10). -/
def slice (p : List Byte) (i j : Nat) : List Byte := (p.drop i).take (j - i)

/-- `sum16(p)`: the bytes added as unsigned values, reduced modulo 2^16 (40_codec.md R100). -/
def sum16 (p : List Byte) : Word := BitVec.ofNat 16 (p.map BitVec.toNat).sum

/-! ### The frame codec's two functions (40_codec.md R102, R104) -/

/-- The seven bytes before the data: marker, then origin, target, control, function, length (40_codec.md R102, R103). -/
def frameHeader (o t c f n : Byte) : List Byte := [Config.mark0, Config.mark1, o, t, c, f, n]

/-- The frame with the given header fields and data (40_codec.md R102; 30_encoding.md R70, R72). -/
def serialize (o t c f n : Byte) (d : List Byte) : List Byte :=
  let body := frameHeader o t c f n ++ d
  let s := sum16 body
  body ++ [hi8 s, lo8 s]

/-- `VALIDATE_fn`'s structural checks fail (40_codec.md R104). -/
def frameMalformed (r : List Byte) : Bool :=
  decide (r.length < 9) || decide (byteAt r 0 ≠ Config.mark0) || decide (byteAt r 1 ≠ Config.mark1) ||
    decide (r.length ≠ (byteAt r 6).toNat + 9)

/-- The record parsed from a structurally sound frame (40_codec.md R104; 10_state.md R35). -/
def parseFrame (r : List Byte) : FrameRecord :=
  let n := (byteAt r 6).toNat
  { origin := byteAt r 2
    target := byteAt r 3
    control := byteAt r 4
    function := byteAt r 5
    len := byteAt r 6
    data := slice r 7 (7 + n)
    crc := be16 r (7 + n)
    kind := classify (byteAt r 4) (byteAt r 5) }

/-- `VALIDATE_fn` (40_codec.md R104): structural checks first, then the sum (60_exceptions.md R210). -/
def validateFn (r : List Byte) : Status × Option FrameRecord :=
  if frameMalformed r then (.frameMalformed, none)
  else
    let fr := parseFrame r
    if sum16 (slice r 0 (7 + (byteAt r 6).toNat)) = fr.crc then (.ok, some fr) else (.checksumMismatch, some fr)

/-! ### Frame reset, timeout, abandonment -/

/-- `frame_reset()` (41_synchronizer.md R131): `tLast` and `buf` stay. -/
def Receive.frameReset (r : Receive) : Receive :=
  { r with phase := .awaitStart, cur := 0#9, rem := 0#9, sync := false, prev := 0x00#8 }

/-- The events of a synchronizer step (10_state.md R34). -/
structure Events where
  frame : Option FrameRecord
  diag : Option Status
deriving DecidableEq, Repr

/-- No event. -/
def Events.none : Events := { frame := .none, diag := .none }

/-- Abandonment, the block's "trap entry" (60_exceptions.md R208): nothing is saved, `frame_reset()` and the `DIAG` event in the
same step. There is no return from it (R209): the next step runs in `AWAIT_START`. -/
def Receive.abandon (cause : Status) (r : Receive) : Receive × Events :=
  (r.frameReset, { frame := .none, diag := some cause })

/-- `(now - tLast) mod 2^TIME_BITS` (41_synchronizer.md R132). That time never decreases is not checked (log 15). -/
def gap (p : Params) (now tLast : Nat) : Nat := (((now : Int) - (tLast : Int)) % ((2 ^ p.timeBits : Nat) : Int)).toNat

/-- `expired(now)` (41_synchronizer.md R132): strictly more than the window, and only outside `AWAIT_START`. -/
def Receive.expired (p : Params) (now : Nat) (r : Receive) : Bool :=
  decide (r.phase ≠ .awaitStart) && decide (p.rxTimeoutMs < gap p now r.tLast)

/-- `check_timeout(now)` (41_synchronizer.md R132). -/
def Receive.checkTimeout (p : Params) (now : Nat) (r : Receive) : Receive × Events :=
  if r.expired p now then r.abandon .rxTimeout else (r, Events.none)

/-- The events of a step whose parts report one after the other. At most one part reports (41_synchronizer.md R144); the
earlier one stands first (log 19). -/
def Events.orElse (first second : Events) : Events :=
  { frame := first.frame.or second.frame, diag := first.diag.or second.diag }

/-- The outputs of a synchronizer step: its events and nothing else (10_state.md R34). -/
def Events.outputs (e : Events) : Outputs := { Outputs.none with frame := e.frame, diag := e.diag }

/-- The end of a synchronizer step: the new record and the step's events. -/
def State.finishRx (s : State) (r : Receive) (e : Events) : State := (s.withRx r).withOut e.outputs

end Sys2Proof.Machine
end

