-- ==== Sys2Proof/Machine/Operands.lean ====
section
/-! DEFINITION. Operand assembly: what each operation reads from the ports (30_encoding.md R81, R83; 10_state.md R33). -/

namespace Sys2Proof.Machine

/-- The first `n` lines of a byte-vector port. A list shorter than `n` has 0 on its remaining lines (log 10); lines at `n` and
beyond are not read (40_codec.md R104). -/
def portBytes (n : Nat) (lines : List Byte) : List Byte := lines.take n ++ List.replicate (n - lines.length) 0#8

/-- `now`: the time input is `TIME_BITS` bits wide (00_scope.md R11; log 11). -/
def State.now (s : State) : Nat := s.ports.now % 2 ^ s.params.timeBits

/-- `enc_data[0 .. enc_len)` (40_codec.md R102). -/
def State.encOperand (s : State) : List Byte := portBytes s.ports.encLen.toNat s.ports.encData

/-- `val_frame[0 .. val_len)` (40_codec.md R104). -/
def State.valOperand (s : State) : List Byte := portBytes s.ports.valLen.toNat s.ports.valFrame

/-- `tel_payload[0 .. tel_len)` (42_telemetry.md R160). -/
def State.telOperand (s : State) : List Byte := portBytes s.ports.telLen.toNat s.ports.telPayload

/-- `bytesRemaining = zext_9(dataLength) + 2` (30_encoding.md R84): `HDR_LEN` and `TRL_LEN` are the wire format's. -/
def bytesRemaining (len : Byte) : BitVec 9 := len.setWidth 9 + BitVec.ofNat 9 Config.trlLen

/-- The cursor value at which the marker and the five header bytes are held (41_synchronizer.md R134). -/
def headerEnd : BitVec 9 := BitVec.ofNat 9 (2 + Config.hdrLen)

/-- The inputs a step takes: the host's next port values become the sampled ones (00_scope.md R7; log 1). -/
def State.sample (s : State) (p : Ports) (rest : List Ports) : State := { s with ports := p, script := rest }

end Sys2Proof.Machine
end

