-- ==== Sys2Proof/Machine/Codec.lean ====
section
/-! DEFINITION. The frame codec's operations ENCODE and VALIDATE (40_codec.md R102, R104): pure functions of the ports. -/

namespace Sys2Proof.Machine

/-- `ENCODE` (40_codec.md R102): `enc_out_len` is `n + 9` in 9 bits. -/
def execEncode (s : State) : Outcome :=
  let q := s.ports
  let out := serialize q.encOrigin q.encTarget q.encControl q.encFunction q.encLen s.encOperand
  .next (s.withOut { Outputs.none with enc := some { out := out, outLen := q.encLen.setWidth 9 + 9#9 } })

/-- `VALIDATE` (40_codec.md R104). -/
def execValidate (s : State) : Outcome :=
  let v := validateFn s.valOperand
  .next (s.withOut { Outputs.none with val := some { status := v.1, fr := v.2 } })

end Sys2Proof.Machine
end

