-- ==== Sys2Proof/Machine/Frames.lean ====
section
/-! DEFINITION. The FRAME rows of the opcode table (30_encoding.md R90 to R97): the classifier's answer for each, and what the
source says of each kind. -/

namespace Sys2Proof.Machine

/-- A FRAME row's answer: the kind, and nothing else changes (40_codec.md R105: a total function with no state; log 6). -/
def reportKind (k : FrameKind) (s : State) : Outcome := .next (s.withOut { Outputs.none with kind := some k })

/-- `FRAME.DISCOVERY` (R90). -/
def execFrameDiscovery (s : State) : Outcome := reportKind .discovery s

/-- `FRAME.REG_REQUEST` (R91). -/
def execFrameRegRequest (s : State) : Outcome := reportKind .regRequest s

/-- `FRAME.ADDR_ASSIGN` (R92). -/
def execFrameAddrAssign (s : State) : Outcome := reportKind .addrAssign s

/-- `FRAME.ADDR_CONFIRM` (R93). -/
def execFrameAddrConfirm (s : State) : Outcome := reportKind .addrConfirm s

/-- `FRAME.REMOVE` (R94). -/
def execFrameRemove (s : State) : Outcome := reportKind .remove s

/-- `FRAME.INFO_REQUEST` (R95). -/
def execFrameInfoRequest (s : State) : Outcome := reportKind .infoRequest s

/-- `FRAME.INFO_RESPONSE` (R96). -/
def execFrameInfoResponse (s : State) : Outcome := reportKind .infoResponse s

/-- `FRAME.UNKNOWN` (R97): the two bytes of the pair name no kind. The classification is the table's, so a term whose pair is
recognised after all (an ill-formed term) answers that pair's kind (log 23). -/
def execFrameUnknown (control function : Byte) (s : State) : Outcome := reportKind (classify control function) s

/-- The directions of the source's table (R90 to R96). The block does not read them. -/
inductive Direction where
  /-- host→bus (R90): to every device at once -/
  | hostToBus
  /-- host→device (R92, R94, R95) -/
  | hostToDevice
  /-- device→host (R91, R93, R96) -/
  | deviceToHost
deriving DecidableEq, Repr

/-- The direction of a recognised kind (R90 to R96). -/
def kindDirection : FrameKind → Option Direction
  | .unknown => none
  | .discovery => some .hostToBus
  | .addrAssign | .remove | .infoRequest => some .hostToDevice
  | .regRequest | .addrConfirm | .infoResponse => some .deviceToHost

/-- The kinds the source sends to the broadcast address (R73, R90, R92). The block checks no target. -/
def kindBroadcastTarget (p : Params) : FrameKind → Option Byte
  | .discovery | .addrAssign => some p.bcastAddr
  | .unknown | .regRequest | .addrConfirm | .remove | .infoRequest | .infoResponse => none

/-- The payload lengths the source gives a recognised kind, as bounds (R90 to R96). The block checks no payload length
except in `TELEM_DECODE`; a consumer does (60_exceptions.md R206). -/
def kindPayloadBounds (p : Params) : FrameKind → Option (Nat × Nat)
  | .unknown => none
  | .discovery | .addrConfirm | .remove | .infoRequest => some (0, 0)
  | .regRequest => some (16, 16)
  | .addrAssign => some (17, 17)
  | .infoResponse => some (p.minTelemLen, 255)

/-- The kind that answers a request (R98). `REMOVE` has no reply kind. -/
def kindReply : FrameKind → Option FrameKind
  | .discovery => some .regRequest
  | .addrAssign => some .addrConfirm
  | .infoRequest => some .infoResponse
  | .unknown | .regRequest | .addrConfirm | .remove | .infoResponse => none

end Sys2Proof.Machine
end

