-- ==== Sys2Proof/Machine/Reserved.lean ====
section
/-! DEFINITION. The two reserved rows (30_encoding.md R82 item 1): the spec gives them no meaning and refuses them; the state
does not change and nothing is output (60_exceptions.md R216). -/

namespace Sys2Proof.Machine

/-- `RESERVED_OP110`: refused whatever its bits 12:0 (R82). -/
def execReservedOp110 (_x : BitVec 13) (_s : State) : Outcome := .refused .reservedOp110

/-- `RESERVED_OP111`: refused whatever its bits 12:0 (R82). -/
def execReservedOp111 (_x : BitVec 13) (_s : State) : Outcome := .refused .reservedOp111

end Sys2Proof.Machine
end

