-- ==== Sys2Proof/Machine/Flags.lean ====
section
/-! DEFINITION. The block's one flag and its status codes (10_state.md R25, R31; 60_exceptions.md R200). -/

namespace Sys2Proof.Machine

/-- The 3-bit code of a status or cause (60_exceptions.md R200); 6 and 7 are unused. -/
def Status.code : Status → BitVec 3
  | .ok => 0#3
  | .rxTimeout => 1#3
  | .rxOversize => 2#3
  | .checksumMismatch => 3#3
  | .frameMalformed => 4#3
  | .shortPayload => 5#3

/-- What `sync` equals at every step boundary (10_state.md R25). The field itself is written by the rules that write it. -/
def syncOf (phase : Phase) : Bool := decide (phase ≠ .awaitStart)

end Sys2Proof.Machine
end

