-- ==== Sys2Proof/Machine/Synchronizer.lean ====
section
/-! DEFINITION. The frame synchronizer's operations TIME_CHECK, RX_BYTE and RESET, and the byte procedures of
41_synchronizer.md R133 to R136 they are built from. -/

namespace Sys2Proof.Machine

/-- `on_await(b)` (41_synchronizer.md R133). It stores two bytes or none (log 25). -/
def onAwait (p : Params) (b : Byte) (r : Receive) : Except Fault (Receive × Events) :=
  if r.prev = Config.mark0 ∧ b = Config.mark1 then
    match Memory.store p.bufCap r.buf 0 Config.mark0 with
    | .error f => .error f
    | .ok m0 =>
      match Memory.store p.bufCap m0 1 Config.mark1 with
      | .error f => .error f
      | .ok m1 =>
        .ok ({ r with buf := m1, cur := 2#9, rem := 0#9, sync := true, phase := .readHeader }, Events.none)
  else .ok ({ r with prev := b }, Events.none)

/-- The first two lines of `on_header` and `on_body`: store at the cursor, advance it (41_synchronizer.md R134, R135). The 9-bit
cursor wraps only in states R28 excludes (log 16). -/
def storeByte (p : Params) (b : Byte) (r : Receive) : Except Fault Receive :=
  match Memory.store p.bufCap r.buf r.cur.toNat b with
  | .error f => .error f
  | .ok m => .ok { r with buf := m, cur := r.cur + 1#9 }

/-- The end of a header: `dataLength` is the byte just stored (41_synchronizer.md R134). -/
def headerComplete (p : Params) (r : Receive) : Receive × Events :=
  let len := r.buf.read 6
  if p.maxDataLen < len.toNat then r.abandon .rxOversize
  else ({ r with rem := bytesRemaining len, phase := .readBody }, Events.none)

/-- `on_header(b)` (41_synchronizer.md R134). -/
def onHeader (p : Params) (b : Byte) (r : Receive) : Except Fault (Receive × Events) :=
  match storeByte p b r with
  | .error f => .error f
  | .ok r' => .ok (if r'.cur = headerEnd then headerComplete p r' else (r', Events.none))

/-- `complete()` (41_synchronizer.md R136): the frame is emitted only if its checksum matches; any other outcome is silent (log 21). -/
def complete (r : Receive) : Receive × Events :=
  let v := validateFn (r.buf.prefixBytes r.cur.toNat)
  (r.frameReset, { frame := if v.1 = .ok then v.2 else none, diag := none })

/-- `on_body(b)` (41_synchronizer.md R135): `FRAME_READY` is entered and left within the step. -/
def onBody (p : Params) (b : Byte) (r : Receive) : Except Fault (Receive × Events) :=
  match storeByte p b r with
  | .error f => .error f
  | .ok r' =>
    let r'' := { r' with rem := r'.rem - 1#9 }
    .ok (if r''.rem = 0#9 then complete { r'' with phase := .frameReady } else (r'', Events.none))

/-- The `case st.phase` of `RX_BYTE` (41_synchronizer.md R137). -/
def onByte (p : Params) (b : Byte) (r : Receive) : Except Fault (Receive × Events) :=
  match r.phase with
  | .awaitStart => onAwait p b r
  | .readHeader => onHeader p b r
  | .readBody => onBody p b r
  | .frameReady => .error .frameReadyHeld

/-- `RX_BYTE` (41_synchronizer.md R137): the timeout test, then `tLast`, then the byte. -/
def execRxByte (b : Byte) (s : State) : Outcome :=
  let c := s.rx.checkTimeout s.params s.now
  match onByte s.params b { c.1 with tLast := s.now } with
  | .error f => .fault f
  | .ok x => .next (s.finishRx x.1 (c.2.orElse x.2))

/-- `TIME_CHECK` (41_synchronizer.md R138): `tLast` is not written. -/
def execTimeCheck (s : State) : Outcome :=
  let c := s.rx.checkTimeout s.params s.now
  .next (s.finishRx c.1 c.2)

/-- `RESET` (41_synchronizer.md R139). -/
def execReset (s : State) : Outcome := .next (s.finishRx s.rx.frameReset Events.none)

end Sys2Proof.Machine
end

