-- ==== Sys2Proof/Machine/Telemetry.lean ====
section
/-! DEFINITION. The telemetry decoder's operation TELEM_DECODE (42_telemetry.md R160 to R170). -/

namespace Sys2Proof.Machine

/-- Where a word field lies in a layout (42_telemetry.md R163, R164): `none` for a field of the other variant only.
The skip parameters move what follows the undecoded region (log 22). -/
def fieldOffset (p : Params) : Variant → TelField → Option Nat
  | _, .vpv1 => some 0
  | _, .vpv2 => some 2
  | _, .ipv1 => some 4
  | _, .ipv2 => some 6
  | _, .vac1 => some 8
  | .single, .vac2 => none
  | .single, .vac3 => none
  | .single, .iac1 => some 10
  | .single, .iac2 => none
  | .single, .iac3 => none
  | .single, .fac1 => some 12
  | .single, .fac2 => none
  | .single, .fac3 => none
  | .single, .pac => some 14
  | .single, .workMode => some 16
  | .single, .temp => some (18 + p.skipS)
  | .single, .eDay => some (20 + p.skipS)
  | .three, .vac2 => some 10
  | .three, .vac3 => some 12
  | .three, .iac1 => some 14
  | .three, .iac2 => some 16
  | .three, .iac3 => some 18
  | .three, .fac1 => some 20
  | .three, .fac2 => some 22
  | .three, .fac3 => some 24
  | .three, .pac => some 26
  | .three, .workMode => some 28
  | .three, .temp => some (30 + p.skipT)
  | .three, .eDay => some (32 + p.skipT)

/-- Offset and length of the undecoded region (42_telemetry.md R167). -/
def reservedRegion (p : Params) : Variant → Nat × Nat
  | .single => (18, p.skipS)
  | .three => (30, p.skipT)

/-- The divisor of a field (42_telemetry.md R163, R164; a phase-2 or phase-3 field has the scale of its phase-1 field). -/
def fieldScale (p : Params) : TelField → Nat
  | .vpv1 | .vpv2 | .vac1 | .vac2 | .vac3 => p.scaleV
  | .ipv1 | .ipv2 | .iac1 | .iac2 | .iac3 => p.scaleI
  | .fac1 | .fac2 | .fac3 => p.scaleF
  | .pac => p.scaleP
  | .workMode => p.scaleWm
  | .temp => p.scaleTemp
  | .eDay => p.edayScale

/-- A word field of an accepted payload: its big-endian word with the field's scale when both bytes lie inside the payload, absent
otherwise (42_telemetry.md R162, R166, R169; the scale by D16). -/
def extractField (p : Params) (v : Variant) (payload : List Byte) (f : TelField) : Option TelWord :=
  match fieldOffset p v f with
  | none => none
  | some off => if off + 2 ≤ payload.length then some { raw := be16 payload off, scale := fieldScale p f } else none

/-- The undecoded bytes, as far as the payload reaches (42_telemetry.md R167). -/
def reservedBytes (p : Params) (v : Variant) (payload : List Byte) : List Byte :=
  let region := reservedRegion p v
  slice payload region.1 (min payload.length (region.1 + region.2))

/-- The record of an accepted payload (42_telemetry.md R160, R170). -/
def telemetryRecord (p : Params) (v : Variant) (payload : List Byte) : TelRecord :=
  let get := extractField p v payload
  { variant := v
    vpv1 := get .vpv1
    vpv2 := get .vpv2
    ipv1 := get .ipv1
    ipv2 := get .ipv2
    vac1 := get .vac1
    vac2 := get .vac2
    vac3 := get .vac3
    iac1 := get .iac1
    iac2 := get .iac2
    iac3 := get .iac3
    fac1 := get .fac1
    fac2 := get .fac2
    fac3 := get .fac3
    pac := get .pac
    workMode := get .workMode
    reserved := reservedBytes p v payload
    temp := get .temp
    eDay := get .eDay }

/-- `TELEM_DECODE(variant, p)` (42_telemetry.md R160): the length gate comes before any field (R161). -/
def decodeTelemetry (p : Params) (v : Variant) (payload : List Byte) : TelResult :=
  if payload.length < p.minTelemLen then { status := .shortPayload, record := none }
  else { status := .ok, record := some (telemetryRecord p v payload) }

/-- `TELEM_DECODE` (42_telemetry.md R160). -/
def execTelemDecode (v : Variant) (s : State) : Outcome :=
  .next (s.withOut { Outputs.none with tel := some (decodeTelemetry s.params v s.telOperand) })

/-- A word field of a record by name. -/
def TelRecord.get (t : TelRecord) : TelField → Option TelWord
  | .vpv1 => t.vpv1
  | .vpv2 => t.vpv2
  | .ipv1 => t.ipv1
  | .ipv2 => t.ipv2
  | .vac1 => t.vac1
  | .vac2 => t.vac2
  | .vac3 => t.vac3
  | .iac1 => t.iac1
  | .iac2 => t.iac2
  | .iac3 => t.iac3
  | .fac1 => t.fac1
  | .fac2 => t.fac2
  | .fac3 => t.fac3
  | .pac => t.pac
  | .workMode => t.workMode
  | .temp => t.temp
  | .eDay => t.eDay

/-- The value of an output field: the exact rational `raw / scale`, unsigned (42_telemetry.md R162, R165). -/
def TelWord.value (w : TelWord) : Rat := (w.raw.toNat : Rat) / (w.scale : Rat)

/-- The value a raw word has in a field (42_telemetry.md R165). -/
def fieldValue (p : Params) (f : TelField) (raw : Word) : Rat := TelWord.value { raw := raw, scale := fieldScale p f }

end Sys2Proof.Machine
end

