-- ==== Sys2Proof/Machine/Dispatch.lean ====
section
/-! DEFINITION. One arm per row of spec/opcode_table.json, each one call of its meaning. -/

namespace Sys2Proof.Machine

/-- What an instruction does to the state whose `ports` are the inputs of the step. -/
def exec (i : Instr) (s : State) : Host.Outcome State Fault Refusal :=
  match i with
  | .timeCheck => Sys2Proof.Machine.execTimeCheck s
  | .rxByte b => Sys2Proof.Machine.execRxByte b s
  | .reset => Sys2Proof.Machine.execReset s
  | .encode => Sys2Proof.Machine.execEncode s
  | .validate => Sys2Proof.Machine.execValidate s
  | .telemDecode v => Sys2Proof.Machine.execTelemDecode v s
  | .frameDiscovery => Sys2Proof.Machine.execFrameDiscovery s
  | .frameRegRequest => Sys2Proof.Machine.execFrameRegRequest s
  | .frameAddrAssign => Sys2Proof.Machine.execFrameAddrAssign s
  | .frameAddrConfirm => Sys2Proof.Machine.execFrameAddrConfirm s
  | .frameRemove => Sys2Proof.Machine.execFrameRemove s
  | .frameInfoRequest => Sys2Proof.Machine.execFrameInfoRequest s
  | .frameInfoResponse => Sys2Proof.Machine.execFrameInfoResponse s
  | .frameUnknown control function => Sys2Proof.Machine.execFrameUnknown control function s
  | .reservedOp110 x => Sys2Proof.Machine.execReservedOp110 x s
  | .reservedOp111 x => Sys2Proof.Machine.execReservedOp111 x s

end Sys2Proof.Machine
end

