-- ==== Sys2Proof/Machine/Assembler.lean ====
section
/-! DEFINITION. The spec's assembly lines and pseudo-operations (30_encoding.md R85, R86), as terms rather than text: each line
stands for the port values of the steps it assembles to (log 17). -/

namespace Sys2Proof.Machine

/-- A line of 30_encoding.md R85; `t` is its `@<t>`, in milliseconds. -/
inductive AsmLine where
  | tick (t : Nat)
  | rx (t : Nat) (b : Byte)
  | reset
  | encode (origin target control function : Byte) (data : List Byte)
  | validate (frame : List Byte)
  | tdecode (v : Variant) (payload : List Byte)
deriving DecidableEq, Repr

/-- The port values a line stands for. Ports its operation does not read are 0. -/
def AsmLine.ports : AsmLine → Ports
  | .tick t => { Ports.zero with cmd := Sys2Proof.encode .timeCheck, now := t }
  | .rx t b => { Ports.zero with cmd := Sys2Proof.encode (.rxByte b), now := t }
  | .reset => { Ports.zero with cmd := Sys2Proof.encode .reset }
  | .encode o t c f d =>
    { Ports.zero with
      cmd := Sys2Proof.encode .encode
      encOrigin := o
      encTarget := t
      encControl := c
      encFunction := f
      encLen := BitVec.ofNat 8 d.length
      encData := d }
  | .validate r =>
    { Ports.zero with cmd := Sys2Proof.encode .validate, valLen := BitVec.ofNat 9 r.length, valFrame := r }
  | .tdecode v p =>
    { Ports.zero with
      cmd := Sys2Proof.encode (.telemDecode v), telLen := BitVec.ofNat 8 p.length, telPayload := p }

/-- The pseudo-operation `@<t>+<d> rxs [...]`: the bytes `d` ms apart (R86). -/
def rxs (t d : Nat) : List Byte → List AsmLine
  | [] => []
  | b :: rest => .rx t b :: rxs (t + d) d rest

/-- The pseudo-operation `@<t>+<d> rxframe ...`: an `encode`, then the bytes of its `enc_out` received (R86). -/
def rxframe (t d : Nat) (origin target control function : Byte) (data : List Byte) : List AsmLine :=
  .encode origin target control function data ::
    rxs t d (serialize origin target control function (BitVec.ofNat 8 data.length) data)

/-- The pseudo-operation `@<t> idle` (R86). -/
def idle (t : Nat) : List AsmLine := [.tick t]

end Sys2Proof.Machine
end

