-- ==== Sys2Proof/Machine/Fetch.lean ====
section
/-! DEFINITION. How a word of the opcode table comes to the block: a command word on the `cmd` port; a control/function pair as
bytes 4 and 5 of a frame given to VALIDATE, whose classifier reads them (40_codec.md R104, R105; log 6). -/

namespace Sys2Proof.Machine

/-- The command a word selects, or the name of the R82 item that refuses it. -/
def fetchCommand (p : Ports) : Except WordError Instr := decodeCommand p.cmd

/-- The port values that present a word of the table. DESIGN CHOICE (log 26): they present `now` = 0, like every port the word does
not give, so that a word placed after a later time breaks the premise of 70_reset_and_hazards.md R238. -/
def portsOfWord (w : Word) : Ports :=
  match decodeCommand w with
  | .ok _ => { Ports.zero with cmd := w }
  | .error _ => (AsmLine.validate (serialize 0#8 0#8 (w.extractLsb' 8 8) (w.extractLsb' 0 8) 0#8 [])).ports

end Sys2Proof.Machine
end

