-- ==== Sys2Proof/Machine/Step.lean ====
section
/-! DEFINITION. One step (00_scope.md R7): sample what the host presents, decode its command word, run the operation. -/

namespace Sys2Proof.Machine

/-- One step. A refused word has no step (60_exceptions.md R216); neither has a host that presents nothing (R7; log 1). -/
def step (s : State) : Host.Outcome State Fault Refusal :=
  match s.script with
  | [] => .refused .noOperation
  | p :: rest =>
    match fetchCommand p with
    | .error e => .refused (.illegalWord e)
    | .ok i => exec i (s.sample p rest)

/-- `s` with a word of the table as what the host presents at the next step (log 1, log 6) and 0 as its
time (log 26). `nbits` is 16 for every row. -/
def State.withFetchWord (s : State) (_nbits w : Nat) : State :=
  { s with script := portsOfWord (BitVec.ofNat 16 w) :: s.script }

end Sys2Proof.Machine
end

