-- ==== Sys2Proof/Safety.lean ====
section
/-! DEFINITION. What counts as a good state and a good run, in the words the statements use. -/

namespace Sys2Proof.Machine

/-- The invariant of 10_state.md R28 on the synchronizer record, clause by clause. -/
abbrev Receive.Inv (p : Params) (r : Receive) : Prop :=
  (r.phase = .awaitStart → r.cur = 0#9 ∧ r.rem = 0#9 ∧ r.sync = false) ∧
  (r.phase = .readHeader →
    2 ≤ r.cur.toNat ∧ r.cur.toNat ≤ 6 ∧ r.rem = 0#9 ∧ r.sync = true ∧ r.buf.read 0 = 0xAA#8 ∧ r.buf.read 1 = 0x55#8) ∧
  (r.phase = .readBody →
    7 ≤ r.cur.toNat ∧ r.cur.toNat ≤ 263 ∧ 1 ≤ r.rem.toNat ∧ r.rem.toNat ≤ 257 ∧ r.sync = true ∧
    r.buf.read 0 = 0xAA#8 ∧ r.buf.read 1 = 0x55#8 ∧ (r.buf.read 6).toNat ≤ p.maxDataLen ∧
    r.cur.toNat + r.rem.toNat = (r.buf.read 6).toNat + 9) ∧
  r.phase ≠ .frameReady

/-- A state the block can be in between steps: the parameters obey 00_scope.md R6, the record obeys 10_state.md R28, the buffer is
in its canonical form inside its capacity, and `tLast` fits its width (R20, R27). -/
abbrev State.Inv (s : State) : Prop :=
  s.params.Valid ∧ s.rx.Inv s.params ∧ s.rx.buf.wf s.params.bufCap = true ∧ s.rx.tLast < 2 ^ s.params.timeBits

/-- The window of the timeout has closed on a frame in progress (41_synchronizer.md R132), said without the machine's own
operations. -/
abbrev State.TimedOut (s : State) : Prop :=
  s.rx.phase ≠ .awaitStart ∧
    (s.params.rxTimeoutMs : Int) <
      ((s.ports.now % 2 ^ s.params.timeBits : Nat) - (s.rx.tLast : Int)) % ((2 ^ s.params.timeBits : Nat) : Int)

/-- Two synchronizer records that agree on everything a rule can read: all but `tLast` in `AWAIT_START` and all but the buffer
at and past the cursor (10_state.md R36, R37; 20_memory.md R64). -/
abbrev Receive.Agrees (r₁ r₂ : Receive) : Prop :=
  r₁.phase = r₂.phase ∧ r₁.cur = r₂.cur ∧ r₁.rem = r₂.rem ∧ r₁.sync = r₂.sync ∧ r₁.prev = r₂.prev ∧
  (r₁.phase ≠ .awaitStart → r₁.tLast = r₂.tLast) ∧
  ∀ i, i < r₁.cur.toNat → r₁.buf.read i = r₂.buf.read i

/-- The outputs of the next `n` steps, in order; it ends where a step does not answer a next state. -/
def outputTrace : Nat → State → List Outputs
  | 0, _ => []
  | n + 1, s =>
    match step s with
    | .next t => t.out :: outputTrace n t
    | .fault _ => []
    | .refused _ => []

/-- The steps `RX_BYTE b₀, b₁, …` at the times `t₀, t₁, …`, one pair a step. -/
def rxScript (timed : List (Nat × Byte)) : List Ports := timed.map fun x => (AsmLine.rx x.1 x.2).ports

/-- Each byte comes within the window of the one before it, modulo the width of the clock (41_synchronizer.md R132, R142). -/
def withinWindow (p : Params) : List Nat → Bool
  | [] => true
  | [_] => true
  | t :: u :: rest =>
    decide (((u % 2 ^ p.timeBits : Nat) - ((t % 2 ^ p.timeBits : Nat) : Int)) % ((2 ^ p.timeBits : Nat) : Int) ≤ p.rxTimeoutMs) &&
      withinWindow p (u :: rest)

end Sys2Proof.Machine
end

