-- ==== Sys2Proof/Certificates/Slice0/Obligations.lean ====
section
/-! DEFINITION. The statements for the provers, by unit: reset and step, command words, synchronizer, codec, telemetry decoder,
FRAME rows, whole machine. OBLIGATIONS.json gives each one's rule. -/

open Sys2Proof Sys2Proof.Machine

/-! ### Reset and the step -/

/-- 10_state.md R37 and 70_reset_and_hazards.md R230: the fields with a stated reset value hold it at power-on, and after a RESET from
every state. -/
def Obligations.PowerOnAndResetHoldTheResetValues : Prop :=
  (State.reset.rx.phase = .awaitStart ∧ State.reset.rx.cur = 0#9 ∧ State.reset.rx.rem = 0#9 ∧
    State.reset.rx.sync = false ∧ State.reset.rx.prev = 0x00#8) ∧
  ∀ s : State, ∃ t, exec .reset s = .next t ∧ t.rx.phase = .awaitStart ∧ t.rx.cur = 0#9 ∧ t.rx.rem = 0#9 ∧
    t.rx.sync = false ∧ t.rx.prev = 0x00#8

/-- 41_synchronizer.md R139: RESET completes from every state, drops a frame in progress without an event, and leaves `tLast`,
`buf` and everything outside the record as they were. -/
def Obligations.ResetDropsTheFrameSilently : Prop :=
  ∀ s : State,
    exec .reset s = .next { s with
      rx := { s.rx with phase := .awaitStart, cur := 0#9, rem := 0#9, sync := false, prev := 0x00#8 }
      out := Outputs.none }

/-- 00_scope.md R7: a step samples what the host presents and performs exactly the decoded operation on it. -/
def Obligations.StepRunsTheDecodedOperation : Prop :=
  ∀ (s : State) (p : Ports) (rest : List Ports) (i : Instr),
    s.script = p :: rest → decodeCommand p.cmd = .ok i → step s = exec i { s with ports := p, script := rest }

/-- The model's choice (log 1): with nothing presented there is no step. -/
def Obligations.NoStepWithoutAnOperation : Prop :=
  ∀ s : State, s.script = [] → step s = .refused .noOperation

/-- 70_reset_and_hazards.md R232 and 00_scope.md R7: a step takes one entry of the host's script and never changes a parameter. -/
def Obligations.StepKeepsParametersAndTakesOneInput : Prop :=
  ∀ s t : State, step s = .next t → t.params = s.params ∧ s.script = t.ports :: t.script

/-- The model's choice (log 6, log 26): a word of the opcode table placed by `withFetchWord` is what the next step runs: a command
word as the operation, at time 0, a control/function pair as the frame kind a VALIDATE step answers. -/
def Obligations.PlacedWordIsRunByTheNextStep : Prop :=
  ∀ (s : State) (w : Word),
    (∀ i, decodeCommand w = .ok i →
      step (s.withFetchWord 16 w.toNat) = exec i { s with ports := { Ports.zero with cmd := w } }) ∧
    (∀ e, decodeCommand w = .error e →
      ∃ t fr, step (s.withFetchWord 16 w.toNat) = .next t ∧ t.out.val = some { status := .ok, fr := some fr } ∧
        fr.control = w.extractLsb' 8 8 ∧ fr.function = w.extractLsb' 0 8 ∧ fr.kind = classify fr.control fr.function ∧
        t.rx = s.rx ∧ t.params = s.params ∧ t.script = s.script)

/-! ### Command words -/

/-- 30_encoding.md R82 (all four items) with 60_exceptions.md R216: a presented word has no step exactly when one of them holds. -/
def Obligations.ReservedAndIllegalWordsAreRefused : Prop :=
  ∀ (s : State) (p : Ports) (rest : List Ports), s.script = p :: rest →
    ((∃ r, step s = .refused r) ↔
      p.cmd.toNat / 8192 = 6 ∨ p.cmd.toNat / 8192 = 7 ∨ p.cmd.toNat / 256 % 16 ≠ 0 ∨
        (p.cmd.toNat / 8192 ≠ 5 ∧ p.cmd.toNat / 4096 % 2 ≠ 0) ∨ (p.cmd.toNat / 8192 ≠ 1 ∧ p.cmd.toNat % 256 ≠ 0))

/-- 30_encoding.md R80: a word decodes to a row of the command table exactly when it matches it, `cmd & mask = match`. -/
def Obligations.CommandWordsDecodeToTheRowTheyMatch : Prop :=
  ∀ (w : Word) (i : Instr), i.format = .cmd16 →
    ((∃ j, decodeCommand w = .ok j ∧ j.rowMask = i.rowMask ∧ j.rowMatch = i.rowMatch) ↔ w &&& i.rowMask = i.rowMatch)

/-- 30_encoding.md R82 item 1: both reserved rows are refused in every state, whatever their free bits. -/
def Obligations.ReservedRowsAlwaysRefuse : Prop :=
  ∀ (s : State) (x : BitVec 13),
    exec (.reservedOp110 x) s = .refused .reservedOp110 ∧ exec (.reservedOp111 x) s = .refused .reservedOp111

/-- Decoding an encoded well-formed instruction in its own format gives it back, every operand at every value. -/
def Obligations.DecodeOfEncodeIsTheInstruction : Prop :=
  ∀ i : Instr, i.wellFormed = true → decodeAs i.format (encode i) = .ok i

/-- A word that decodes is the encoding of what it decodes to: each word has one meaning in each format. -/
def Obligations.EncodeOfDecodeIsTheWord : Prop :=
  ∀ (f : Format) (w : Word) (i : Instr),
    decodeAs f w = .ok i → encode i = w ∧ i.format = f ∧ i.wellFormed = true

/-- 95_test_vectors.md W1 to W9: sample command words of every operation. -/
def Obligations.SampleCommandWordsDecode : Prop :=
  decodeCommand 0x0000#16 = .ok .timeCheck ∧ decodeCommand 0x2000#16 = .ok (.rxByte 0x00#8) ∧
  decodeCommand 0x20AA#16 = .ok (.rxByte 0xAA#8) ∧ decodeCommand 0x20FF#16 = .ok (.rxByte 0xFF#8) ∧
  decodeCommand 0x4000#16 = .ok .reset ∧ decodeCommand 0x6000#16 = .ok .encode ∧
  decodeCommand 0x8000#16 = .ok .validate ∧ decodeCommand 0xA000#16 = .ok (.telemDecode .single) ∧
  decodeCommand 0xB000#16 = .ok (.telemDecode .three)

/-! ### The synchronizer -/

/-- 41_synchronizer.md R138 (with R132): TIME_CHECK completes from every state; it abandons a frame whose window has closed and
does nothing else, and never writes `tLast`. -/
def Obligations.TimeCheckTestsTheWindow : Prop :=
  ∀ s : State,
    (s.TimedOut →
      exec .timeCheck s = .next { s with
        rx := { s.rx with phase := .awaitStart, cur := 0#9, rem := 0#9, sync := false, prev := 0x00#8 }
        out := { Outputs.none with diag := some .rxTimeout } }) ∧
    (¬s.TimedOut → exec .timeCheck s = .next { s with out := Outputs.none })

/-- 41_synchronizer.md R133 and R141: a byte in AWAIT_START, at any time. -/
def Obligations.RxByteHuntsForTheMarker : Prop :=
  ∀ (s : State) (b : Byte), s.rx.phase = .awaitStart →
    (s.rx.prev = 0xAA#8 → b = 0x55#8 → 2 ≤ s.params.bufCap →
      exec (.rxByte b) s = .next { s with
        rx := { phase := .readHeader
                buf := (s.rx.buf.write 0 0xAA#8).write 1 0x55#8
                cur := 2#9
                rem := 0#9
                sync := true
                prev := s.rx.prev
                tLast := s.ports.now % 2 ^ s.params.timeBits }
        out := Outputs.none }) ∧
    (¬(s.rx.prev = 0xAA#8 ∧ b = 0x55#8) →
      exec (.rxByte b) s = .next { s with
        rx := { s.rx with prev := b, tLast := s.ports.now % 2 ^ s.params.timeBits }
        out := Outputs.none })

/-- 41_synchronizer.md R134: a header byte that is not the fifth. -/
def Obligations.RxByteStoresAHeaderByte : Prop :=
  ∀ (s : State) (b : Byte), ¬s.TimedOut → s.rx.phase = .readHeader → s.rx.cur.toNat < s.params.bufCap → s.rx.cur ≠ 6#9 →
    exec (.rxByte b) s = .next { s with
      rx := { s.rx with
              buf := s.rx.buf.write s.rx.cur.toNat b
              cur := s.rx.cur + 1#9
              tLast := s.ports.now % 2 ^ s.params.timeBits }
      out := Outputs.none }

/-- 41_synchronizer.md R134: the fifth header byte is `dataLength`; a length over `MAX_DATA_LEN` is abandoned with RX_OVERSIZE
(60_exceptions.md R202), any other starts the body with `dataLength + 2` bytes expected. -/
def Obligations.RxByteCompletesTheHeader : Prop :=
  ∀ (s : State) (b : Byte), ¬s.TimedOut → s.rx.phase = .readHeader → s.rx.cur = 6#9 → 6 < s.params.bufCap →
    s.rx.buf.wf s.params.bufCap = true →
    (s.params.maxDataLen < b.toNat →
      exec (.rxByte b) s = .next { s with
        rx := { phase := .awaitStart
                buf := s.rx.buf.write 6 b
                cur := 0#9
                rem := 0#9
                sync := false
                prev := 0x00#8
                tLast := s.ports.now % 2 ^ s.params.timeBits }
        out := { Outputs.none with diag := some .rxOversize } }) ∧
    (b.toNat ≤ s.params.maxDataLen →
      exec (.rxByte b) s = .next { s with
        rx := { s.rx with
                phase := .readBody
                buf := s.rx.buf.write 6 b
                cur := 7#9
                rem := BitVec.ofNat 9 (b.toNat + 2)
                tLast := s.ports.now % 2 ^ s.params.timeBits }
        out := Outputs.none })

/-- 41_synchronizer.md R135: a body byte that is not the last. -/
def Obligations.RxByteStoresABodyByte : Prop :=
  ∀ (s : State) (b : Byte), ¬s.TimedOut → s.rx.phase = .readBody → s.rx.cur.toNat < s.params.bufCap → s.rx.rem ≠ 1#9 →
    exec (.rxByte b) s = .next { s with
      rx := { s.rx with
              buf := s.rx.buf.write s.rx.cur.toNat b
              cur := s.rx.cur + 1#9
              rem := s.rx.rem - 1#9
              tLast := s.ports.now % 2 ^ s.params.timeBits }
      out := Outputs.none }

/-- 41_synchronizer.md R136 with 10_state.md R35: the last body byte completes the frame in the same step. It is emitted with the
fields at their places in the buffer exactly when the byte sum matches the trailer, silently dropped otherwise, and the record is
reset either way. -/
def Obligations.RxByteCompletesTheFrame : Prop :=
  ∀ (s : State) (b : Byte), s.Inv → ¬s.TimedOut → s.rx.phase = .readBody → s.rx.rem = 1#9 →
    let m := s.rx.buf.write s.rx.cur.toNat b
    let n := (m.read 6).toNat
    exec (.rxByte b) s = .next { s with
      rx := { phase := .awaitStart
              buf := m
              cur := 0#9
              rem := 0#9
              sync := false
              prev := 0x00#8
              tLast := s.ports.now % 2 ^ s.params.timeBits }
      out := { Outputs.none with
        frame :=
          if BitVec.ofNat 16 ((List.range (7 + n)).map fun i => (m.read i).toNat).sum = m.read (7 + n) ++ m.read (8 + n) then
            some { origin := m.read 2
                   target := m.read 3
                   control := m.read 4
                   function := m.read 5
                   len := m.read 6
                   data := (List.range n).map fun i => m.read (7 + i)
                   crc := m.read (7 + n) ++ m.read (8 + n)
                   kind := classify (m.read 4) (m.read 5) }
          else none } }

/-- 41_synchronizer.md R137: a byte after the window first abandons the frame and is then taken in AWAIT_START with no previous
byte, so not even 0x55 starts a frame. -/
def Obligations.LateByteAbandonsTheFrameFirst : Prop :=
  ∀ (s : State) (b : Byte), s.TimedOut →
    exec (.rxByte b) s = .next { s with
      rx := { s.rx with
              phase := .awaitStart
              cur := 0#9
              rem := 0#9
              sync := false
              prev := b
              tLast := s.ports.now % 2 ^ s.params.timeBits }
      out := { Outputs.none with diag := some .rxTimeout } }

/-- 70_reset_and_hazards.md R236: a TIME_CHECK before a byte, at the byte's own time, changes only in which of the two steps
RX_TIMEOUT appears: the byte counts the same. -/
def Obligations.TimeCheckBeforeAByteOnlyMovesTheReport : Prop :=
  ∀ (s u v : State) (b : Byte), exec .timeCheck s = .next u → exec (.rxByte b) s = .next v →
    ∃ w, exec (.rxByte b) u = .next w ∧ w.rx = v.rx ∧ w.out.frame = v.out.frame ∧
      v.out.diag = u.out.diag.or w.out.diag ∧ (u.out.diag = none ∨ w.out.diag = none)

/-- 41_synchronizer.md R132, R133, R137 with 20_memory.md R51 and 10_state.md R27: from a state meeting R28, RX_BYTE completes, and the
only bytes of the buffer it writes are the marker's two when the marker is found and the one at the cursor inside a frame (the
model follows this pseudocode where 20_memory.md R50 and R56 say one byte a step: log 25); parameters, inputs and the codec's
outputs are untouched. -/
def Obligations.RxByteWritesOnlyItsByte : Prop :=
  ∀ (s : State) (b : Byte), s.Inv →
    ∃ t, exec (.rxByte b) s = .next t ∧ t.params = s.params ∧ t.ports = s.ports ∧ t.script = s.script ∧
      t.rx.tLast = s.ports.now % 2 ^ s.params.timeBits ∧
      t.out.enc = none ∧ t.out.val = none ∧ t.out.tel = none ∧ t.out.kind = none ∧
      (s.TimedOut → ∀ a, t.rx.buf.read a = s.rx.buf.read a) ∧
      (s.rx.phase = .awaitStart → s.rx.prev = 0xAA#8 → b = 0x55#8 →
        t.rx.buf.read 0 = 0xAA#8 ∧ t.rx.buf.read 1 = 0x55#8 ∧ ∀ a, 2 ≤ a → t.rx.buf.read a = s.rx.buf.read a) ∧
      (s.rx.phase = .awaitStart → ¬(s.rx.prev = 0xAA#8 ∧ b = 0x55#8) → ∀ a, t.rx.buf.read a = s.rx.buf.read a) ∧
      (s.rx.phase ≠ .awaitStart → ¬s.TimedOut →
        t.rx.buf.read s.rx.cur.toNat = b ∧ ∀ a, a ≠ s.rx.cur.toNat → t.rx.buf.read a = s.rx.buf.read a)

/-- The model's choice (log 8, log 9): exactly when RX_BYTE stops, and by which name. Each such state fails the invariant of R28 and
R6; other states that fail it step on. -/
def Obligations.RxByteStopsOnlyInTheseExcludedStates : Prop :=
  ∀ (s : State) (b : Byte) (f : Fault),
    exec (.rxByte b) s = .fault f ↔
      ¬s.Inv ∧ ¬s.TimedOut ∧
        ((s.rx.phase = .frameReady ∧ f = .frameReadyHeld) ∨
         ((s.rx.phase = .readHeader ∨ s.rx.phase = .readBody) ∧ s.params.bufCap ≤ s.rx.cur.toNat ∧ f = .bufferIndex) ∨
         (s.rx.phase = .awaitStart ∧ s.rx.prev = 0xAA#8 ∧ b = 0x55#8 ∧ s.params.bufCap < 2 ∧ f = .bufferIndex))

/-- 41_synchronizer.md R144: the events of a step are none, one DIAG with one of the two synchronizer causes, or one FRAME. -/
def Obligations.AtMostOneEventPerStep : Prop :=
  ∀ s t : State, step s = .next t →
    (t.out.frame = none ∨ t.out.diag = none) ∧
      (t.out.diag = none ∨ t.out.diag = some .rxTimeout ∨ t.out.diag = some .rxOversize)

/-- 40_codec.md R108: the bytes of a frame the synchronizer completes, given to VALIDATE, are never FRAME_MALFORMED. -/
def Obligations.CompletedFrameIsStructurallySound : Prop :=
  ∀ (s u : State) (b : Byte), s.Inv → s.rx.phase = .readBody → s.rx.rem = 1#9 →
    u.ports.valFrame = (List.range (s.rx.cur.toNat + 1)).map (s.rx.buf.write s.rx.cur.toNat b).read →
    u.ports.valLen = s.rx.cur + 1#9 →
    ∃ st fr, exec .validate u = .next { u with out := { Outputs.none with val := some { status := st, fr := some fr } } } ∧
      (st = .ok ∨ st = .checksumMismatch)

/-- 41_synchronizer.md R137 with D7 and 70_reset_and_hazards.md R231: after a step that completed a frame, emitted or silently dropped,
a 0x55 does not start one, whatever the frame's last byte. -/
def Obligations.FrameEndIsNoMarkerStart : Prop :=
  ∀ (s t u : State) (b : Byte), exec (.rxByte b) s = .next t →
    (t.out.frame ≠ none ∨ (¬s.TimedOut ∧ s.rx.phase = .readBody ∧ s.rx.rem = 1#9)) → u.rx = t.rx →
    ∃ v, exec (.rxByte 0x55#8) u = .next v ∧ v.rx.phase = .awaitStart ∧ v.out = Outputs.none

/-- 41_synchronizer.md R140, 70_reset_and_hazards.md R234: inside a body every byte is taken as body, whatever its value: fewer bytes
than are still expected, each within the window, produce no event at all, stand in the buffer from the old cursor on behind what
it held, and are counted by `cur` and `rem`. -/
def Obligations.BodyTakesEveryByteUnseen : Prop :=
  ∀ (s : State) (times : List Nat) (bytes : List Byte) (rest : List Ports),
    s.Inv → s.rx.phase = .readBody → bytes.length < s.rx.rem.toNat → times.length = bytes.length →
    withinWindow s.params (s.rx.tLast :: times) = true →
    s.script = rxScript (times.zip bytes) ++ rest →
    outputTrace bytes.length s = List.replicate bytes.length Outputs.none ∧
      ∃ t, Sys2Proof.core.run bytes.length s = .next t ∧ t.rx.phase = .readBody ∧
        t.rx.cur.toNat = s.rx.cur.toNat + bytes.length ∧ t.rx.rem.toNat = s.rx.rem.toNat - bytes.length ∧
        (∀ i, i < bytes.length → t.rx.buf.read (s.rx.cur.toNat + i) = byteAt bytes i) ∧
        ∀ i, i < s.rx.cur.toNat → t.rx.buf.read i = s.rx.buf.read i

/-- 20_memory.md R51: while a frame is received from AWAIT_START, the buffer holds its bytes in wire order from index 0. -/
def Obligations.BufferHoldsTheFrameInWireOrder : Prop :=
  ∀ (s : State) (o t c f : Byte) (d : List Byte) (times : List Nat) (rest : List Ports) (k : Nat),
    s.Inv → s.rx.phase = .awaitStart → d.length ≤ s.params.maxDataLen → times.length = d.length + 9 →
    withinWindow s.params times = true →
    s.script = rxScript (times.zip (serialize o t c f (BitVec.ofNat 8 d.length) d)) ++ rest →
    2 ≤ k → k ≤ d.length + 8 →
    ∃ u, Sys2Proof.core.run k s = .next u ∧ u.rx.cur.toNat = k ∧
      u.rx.phase = (if k < 7 then .readHeader else .readBody) ∧
      ∀ i, i < k → u.rx.buf.read i = byteAt (serialize o t c f (BitVec.ofNat 8 d.length) d) i

/-- 41_synchronizer.md R142, and for the prev = 0xAA that R142 leaves out R133: a valid frame delivered byte by byte within the window
from AWAIT_START, whatever `prev` holds, yields exactly one event: FRAME, in the step of its last byte, with the encoded fields. -/
def Obligations.DeliveredFrameIsEmittedOnceAtItsLastByte : Prop :=
  ∀ (s : State) (o t c f : Byte) (d : List Byte) (times : List Nat) (rest : List Ports),
    s.Inv → s.rx.phase = .awaitStart → d.length ≤ s.params.maxDataLen → times.length = d.length + 9 →
    withinWindow s.params times = true →
    s.script = rxScript (times.zip (serialize o t c f (BitVec.ofNat 8 d.length) d)) ++ rest →
    outputTrace (d.length + 9) s =
      List.replicate (d.length + 8) Outputs.none ++
        [{ Outputs.none with
            frame := some
              { origin := o
                target := t
                control := c
                function := f
                len := BitVec.ofNat 8 d.length
                data := d
                crc := sum16 ([0xAA#8, 0x55#8, o, t, c, f, BitVec.ofNat 8 d.length] ++ d)
                kind := classify c f } }]

/-! ### The codec -/

/-- 10_state.md R33: an operand vector has its declared length and its bytes are the port's lines. That a line past the end of the
list is 0x00 is the model's choice (log 10). -/
def Obligations.OperandVectorIsThePortsLines : Prop :=
  ∀ (n : Nat) (lines : List Byte),
    (portBytes n lines).length = n ∧ (∀ i, i < n → byteAt (portBytes n lines) i = byteAt lines i) ∧
      (lines.length = n → portBytes n lines = lines)

/-- 40_codec.md R100: the checksum is the byte sum modulo 2^16, and the largest frame wraps. -/
def Obligations.ChecksumIsTheByteSumModulo65536 : Prop :=
  (∀ p : List Byte, (sum16 p).toNat = (p.map BitVec.toNat).sum % 65536) ∧
    (([0xAA#8, 0x55#8] ++ List.replicate 260 0xFF#8).map BitVec.toNat).sum = 66555 ∧
    sum16 ([0xAA#8, 0x55#8] ++ List.replicate 260 0xFF#8) = 0x03FB#16

/-- 40_codec.md R101: the marker always contributes 0xFF to a frame's checksum. -/
def Obligations.MarkerContributes255ToTheChecksum : Prop :=
  ∀ p : List Byte, sum16 (0xAA#8 :: 0x55#8 :: p) = 0x00FF#16 + sum16 p

/-- 40_codec.md R102: ENCODE completes from every state with the header, the data and the sum of both, high byte first; only the
outputs change. -/
def Obligations.EncodeSerializesTheFrame : Prop :=
  ∀ s : State,
    let q := s.ports
    let body := [0xAA#8, 0x55#8, q.encOrigin, q.encTarget, q.encControl, q.encFunction, q.encLen] ++
      portBytes q.encLen.toNat q.encData
    exec .encode s = .next { s with
      out := { Outputs.none with
        enc := some
          { out := body ++ [(sum16 body).extractLsb' 8 8, (sum16 body).extractLsb' 0 8]
            outLen := BitVec.ofNat 9 (q.encLen.toNat + 9) } } }

/-- 30_encoding.md R71: an encoded frame of data length L is L + 9 bytes long and `enc_out_len` says so. -/
def Obligations.EncodedFrameIsNineBytesLongerThanItsData : Prop :=
  ∀ s t : State, exec .encode s = .next t →
    ∃ e, t.out.enc = some e ∧ e.out.length = s.ports.encLen.toNat + 9 ∧ e.outLen.toNat = s.ports.encLen.toNat + 9

/-- 40_codec.md R104: VALIDATE completes from every state: malformed vectors first, then the sum over marker, header and data against
the trailer, with the parsed record on both outcomes; only the outputs change. -/
def Obligations.ValidateChecksAndParsesTheFrame : Prop :=
  ∀ s : State,
    let m := s.ports.valLen.toNat
    let r := byteAt (portBytes m s.ports.valFrame)
    let n := (r 6).toNat
    exec .validate s = .next { s with
      out := { Outputs.none with
        val := some
          (if m < 9 ∨ r 0 ≠ 0xAA#8 ∨ r 1 ≠ 0x55#8 ∨ m ≠ n + 9 then { status := .frameMalformed, fr := none }
           else
             { status :=
                 if BitVec.ofNat 16 ((List.range (7 + n)).map fun i => (r i).toNat).sum = r (7 + n) ++ r (8 + n) then .ok
                 else .checksumMismatch
               fr := some
                 { origin := r 2
                   target := r 3
                   control := r 4
                   function := r 5
                   len := r 6
                   data := (List.range n).map fun i => r (7 + i)
                   crc := r (7 + n) ++ r (8 + n)
                   kind := classify (r 4) (r 5) } }) } }

/-- 40_codec.md R107: VALIDATE of what ENCODE wrote answers OK and gives every operand back. -/
def Obligations.ValidateOfEncodeRecoversTheFrame : Prop :=
  ∀ s : State, ∃ e,
    exec .encode s = .next { s with out := { Outputs.none with enc := some e } } ∧
      ∀ u : State, u.ports.valFrame = e.out → u.ports.valLen = e.outLen →
        exec .validate u = .next { u with
          out := { Outputs.none with
            val := some
              { status := .ok
                fr := some
                  { origin := s.ports.encOrigin
                    target := s.ports.encTarget
                    control := s.ports.encControl
                    function := s.ports.encFunction
                    len := s.ports.encLen
                    data := portBytes s.ports.encLen.toNat s.ports.encData
                    crc := be16 e.out (s.ports.encLen.toNat + 7)
                    kind := classify s.ports.encControl s.ports.encFunction } } } }

/-- 40_codec.md R106: one flipped bit anywhere in an encoded frame is detected: by the structural checks in the marker and length
bytes, by the checksum everywhere else. -/
def Obligations.SingleBitFlipIsAlwaysDetected : Prop :=
  ∀ (u : State) (o t c f : Byte) (d : List Byte) (i k : Nat),
    d.length ≤ 255 → i < d.length + 9 → k < 8 →
    (let fr := serialize o t c f (BitVec.ofNat 8 d.length) d
     u.ports.valFrame = fr.set i (byteAt fr i ^^^ (1#8 <<< k))) →
    u.ports.valLen.toNat = d.length + 9 →
    ∃ v, exec .validate u = .next { u with out := { Outputs.none with val := some v } } ∧
      v.status = (if i = 0 ∨ i = 1 ∨ i = 6 then .frameMalformed else .checksumMismatch) ∧
      (v.fr = none ↔ v.status = .frameMalformed)

/-! ### The telemetry decoder -/

/-- 42_telemetry.md R160, R161: TELEM_DECODE completes from every state; a payload under the minimum has no record, any other has
one whose every word field is the big-endian word at its layout offset when both bytes lie in the payload, and absent otherwise
(its scales: FieldValueIsTheExactQuotient; its undecoded region: ReservedRegionFollowsTheParameters). -/
def Obligations.TelemDecodeExtractsTheLayout : Prop :=
  ∀ (s : State) (v : Variant),
    let n := s.ports.telLen.toNat
    (n < s.params.minTelemLen →
      exec (.telemDecode v) s = .next { s with
        out := { Outputs.none with tel := some { status := .shortPayload, record := none } } }) ∧
    (s.params.minTelemLen ≤ n →
      ∃ rec, exec (.telemDecode v) s = .next { s with
          out := { Outputs.none with tel := some { status := .ok, record := some rec } } } ∧
        rec.variant = v ∧
        ∀ field, (rec.get field).map TelWord.raw =
          match fieldOffset s.params v field with
          | none => none
          | some off =>
            if off + 2 ≤ n then some (byteAt s.ports.telPayload off ++ byteAt s.ports.telPayload (off + 1)) else none)

/-- 42_telemetry.md R163: the single-phase layout with the default parameters: each field's offset and scale, the place of the
undecoded region, and that no other field is in it. -/
def Obligations.SinglePhaseLayoutTable : Prop :=
  reservedRegion Config.defaults .single = (18, 26) ∧
  (∀ field ∈ [TelField.vac2, .vac3, .iac2, .iac3, .fac2, .fac3], fieldOffset Config.defaults .single field = none) ∧
  ∀ row ∈ [(TelField.vpv1, 0, 10), (.vpv2, 2, 10), (.ipv1, 4, 10), (.ipv2, 6, 10), (.vac1, 8, 10), (.iac1, 10, 10),
      (.fac1, 12, 100), (.pac, 14, 1), (.workMode, 16, 1), (.temp, 44, 10), (.eDay, 46, Config.defaults.edayScale)],
    fieldOffset Config.defaults .single row.1 = some row.2.1 ∧ fieldScale Config.defaults row.1 = row.2.2

/-- 42_telemetry.md R164: the three-phase layout with the default parameters: each field's offset and scale, and the place of the
undecoded region. -/
def Obligations.ThreePhaseLayoutTable : Prop :=
  reservedRegion Config.defaults .three = (30, 34) ∧
  ∀ row ∈ [(TelField.vpv1, 0, 10), (.vpv2, 2, 10), (.ipv1, 4, 10), (.ipv2, 6, 10), (.vac1, 8, 10), (.vac2, 10, 10),
      (.vac3, 12, 10), (.iac1, 14, 10), (.iac2, 16, 10), (.iac3, 18, 10), (.fac1, 20, 100), (.fac2, 22, 100), (.fac3, 24, 100),
      (.pac, 26, 1), (.workMode, 28, 1), (.temp, 64, 10), (.eDay, 66, Config.defaults.edayScale)],
    fieldOffset Config.defaults .three row.1 = some row.2.1 ∧ fieldScale Config.defaults row.1 = row.2.2

/-- 42_telemetry.md R167: the undecoded region is copied as far as the payload reaches. -/
def Obligations.ReservedRegionIsCopiedVerbatim : Prop :=
  ∀ (s : State) (v : Variant), s.params = Config.defaults → 44 ≤ s.ports.telLen.toNat →
    ∃ rec, exec (.telemDecode v) s = .next { s with
        out := { Outputs.none with tel := some { status := .ok, record := some rec } } } ∧
      let start := if v = .single then 18 else 30
      let stop := min s.ports.telLen.toNat (if v = .single then 44 else 64)
      rec.reserved.length = stop - start ∧
        ∀ i, i < stop - start → byteAt rec.reserved i = byteAt s.ports.telPayload (start + i)

/-- 42_telemetry.md R160's last line for every choice of the parameters: the undecoded region of an accepted payload is copied from the
layout's place as far as the payload reaches. That the place follows SKIP_S and SKIP_T is the model's reading (log 22). -/
def Obligations.ReservedRegionFollowsTheParameters : Prop :=
  ∀ (s : State) (v : Variant), s.params.minTelemLen ≤ s.ports.telLen.toNat →
    reservedRegion s.params v = (if v = .single then (18, s.params.skipS) else (30, s.params.skipT)) ∧
      ∃ rec, exec (.telemDecode v) s = .next { s with
          out := { Outputs.none with tel := some { status := .ok, record := some rec } } } ∧
        let start := (reservedRegion s.params v).1
        let stop := min s.ports.telLen.toNat (start + (reservedRegion s.params v).2)
        rec.reserved = (List.range (stop - start)).map fun i => byteAt s.ports.telPayload (start + i)

/-- 42_telemetry.md R170: which fields a record has, with the default parameters; a rejected payload has no record. -/
def Obligations.FieldPresenceByLengthAndVariant : Prop :=
  ∀ (s : State) (v : Variant), s.params = Config.defaults →
    (s.ports.telLen.toNat < 44 →
      exec (.telemDecode v) s = .next { s with
        out := { Outputs.none with tel := some { status := .shortPayload, record := none } } }) ∧
    (44 ≤ s.ports.telLen.toNat →
      ∃ rec, exec (.telemDecode v) s = .next { s with
          out := { Outputs.none with tel := some { status := .ok, record := some rec } } } ∧
        rec.variant = v ∧
        (∀ field ∈ [TelField.vpv1, .vpv2, .ipv1, .ipv2, .vac1, .iac1, .fac1, .pac, .workMode], (rec.get field).isSome = true) ∧
        (∀ field ∈ [TelField.vac2, .vac3, .iac2, .iac3, .fac2, .fac3], ((rec.get field).isSome = true ↔ v = .three)) ∧
        (rec.temp.isSome = true ↔ (if v = .single then 46 else 66) ≤ s.ports.telLen.toNat) ∧
        (rec.eDay.isSome = true ↔ (if v = .single then 48 else 68) ≤ s.ports.telLen.toNat) ∧
        rec.reserved.length ≤ 34)

/-- 42_telemetry.md R168: bytes past the layout's end change no output. -/
def Obligations.BytesPastTheLayoutAreIgnored : Prop :=
  ∀ (s u : State) (v : Variant), s.params = Config.defaults → u.params = Config.defaults →
    (if v = .single then 48 else 68) ≤ s.ports.telLen.toNat → (if v = .single then 48 else 68) ≤ u.ports.telLen.toNat →
    (∀ i, i < (if v = .single then 48 else 68) → byteAt s.ports.telPayload i = byteAt u.ports.telPayload i) →
    ∃ o, exec (.telemDecode v) s = .next { s with out := o } ∧ exec (.telemDecode v) u = .next { u with out := o }

/-- 42_telemetry.md R165 with D16: the scales by quantity, EDAY_SCALE left open; every field a step outputs carries the scale of
the parameters beside its raw word, and its value times that scale is the raw word, exactly, for every choice of the
parameters R6 allows. -/
def Obligations.FieldValueIsTheExactQuotient : Prop :=
  (∀ field, fieldScale Config.defaults field =
    if field ∈ [TelField.fac1, .fac2, .fac3] then 100
    else if field ∈ [TelField.pac, .workMode] then 1
    else if field = .eDay then Config.defaults.edayScale
    else 10) ∧
  (∀ (p : Params) (field : TelField) (raw : Word), p.Valid →
    fieldValue p field raw * (fieldScale p field : Rat) = (raw.toNat : Rat)) ∧
  ∀ (s : State) (v : Variant), s.params.Valid → s.params.minTelemLen ≤ s.ports.telLen.toNat →
    ∃ rec, exec (.telemDecode v) s = .next { s with
        out := { Outputs.none with tel := some { status := .ok, record := some rec } } } ∧
      ∀ field w, rec.get field = some w →
        w.scale = fieldScale s.params field ∧ w.value = fieldValue s.params field w.raw ∧
          w.value * (w.scale : Rat) = (w.raw.toNat : Rat)

/-! ### The FRAME rows -/

/-- 40_codec.md R105: the classifier's table, by code. -/
def Obligations.ClassifyIsTheControlFunctionTable : Prop :=
  ∀ c f : Byte,
    (classify c f).code =
      if c = 0x00#8 then
        if f = 0x00#8 then 1#3 else if f = 0x80#8 then 2#3 else if f = 0x01#8 then 3#3 else if f = 0x81#8 then 4#3
        else if f = 0x02#8 then 5#3 else 0#3
      else if c = 0x01#8 then if f = 0x01#8 then 6#3 else if f = 0x81#8 then 7#3 else 0#3
      else 0#3

/-- The model's choice (log 6), over 30_encoding.md R90 to R97: each FRAME row completes from every state, answers its kind and
changes nothing else. -/
def Obligations.FrameRowsAnswerTheirKind : Prop :=
  ∀ (s : State) (c f : Byte),
    exec .frameDiscovery s = .next { s with out := { Outputs.none with kind := some .discovery } } ∧
    exec .frameRegRequest s = .next { s with out := { Outputs.none with kind := some .regRequest } } ∧
    exec .frameAddrAssign s = .next { s with out := { Outputs.none with kind := some .addrAssign } } ∧
    exec .frameAddrConfirm s = .next { s with out := { Outputs.none with kind := some .addrConfirm } } ∧
    exec .frameRemove s = .next { s with out := { Outputs.none with kind := some .remove } } ∧
    exec .frameInfoRequest s = .next { s with out := { Outputs.none with kind := some .infoRequest } } ∧
    exec .frameInfoResponse s = .next { s with out := { Outputs.none with kind := some .infoResponse } } ∧
    ((Instr.frameUnknown c f).wellFormed = true →
      exec (.frameUnknown c f) s = .next { s with out := { Outputs.none with kind := some .unknown } })

/-- The model's choice (log 6): the FRAME row a pair selects, which 40_codec.md R105 calls no operation, answers as its output the kind
the pair has in a frame record. -/
def Obligations.SelectedFrameRowAgreesWithClassify : Prop :=
  ∀ (s : State) (c f : Byte),
    exec (decodeFrame c f) s = .next { s with out := { Outputs.none with kind := some (classify c f) } } ∧
      encode (decodeFrame c f) = c ++ f

/-- 30_encoding.md R98: a reply's pair has its request's control code and the request's function code with bit 7 set. -/
def Obligations.ReplyKindSetsBit7OfTheFunction : Prop :=
  ∀ (c f : Byte) (k : FrameKind), kindReply (classify c f) = some k → classify c (f ||| 0x80#8) = k

/-! ### The whole machine -/

/-- 10_state.md R28: the invariant is preserved by every operation, in every state that meets it. -/
def Obligations.EveryStepKeepsTheInvariant : Prop :=
  ∀ s t : State, s.Inv → step s = .next t → t.Inv

/-- The invariant holds right after reset, whatever positive value EDAY_SCALE has. -/
def Obligations.ResetStateMeetsTheInvariant : Prop := State.reset.Inv

/-- 60_exceptions.md R207: from a state meeting R28 every operation completes; the block never stops. -/
def Obligations.EveryOperationCompletes : Prop :=
  ∀ (s : State) (p : Ports) (rest : List Ports) (i : Instr), s.Inv → s.script = p :: rest → decodeCommand p.cmd = .ok i →
    (∀ x, i ≠ .reservedOp110 x ∧ i ≠ .reservedOp111 x) → ∃ t, step s = .next t

/-- 60_exceptions.md R207: no step from a state meeting R28 faults. -/
def Obligations.NoFaultInsideTheInvariant : Prop :=
  ∀ (s : State) (f : Fault), s.Inv → step s ≠ .fault f

/-- 10_state.md R25: at every step boundary the flag is 1 exactly outside AWAIT_START. -/
def Obligations.SyncFlagTellsTheFrameInProgress : Prop :=
  ∀ s t : State, s.Inv → step s = .next t → (t.rx.sync = true ↔ t.rx.phase ≠ .awaitStart)

/-- 10_state.md R34: each output comes only from the operations R34 gives it, and the outputs of one step are all of them. -/
def Obligations.OutputsComeOnlyFromTheirOperations : Prop :=
  ∀ (s t : State) (p : Ports) (rest : List Ports) (i : Instr),
    s.script = p :: rest → decodeCommand p.cmd = .ok i → step s = .next t →
    (t.out.frame ≠ none → ∃ b, i = .rxByte b) ∧
    (t.out.diag ≠ none → i = .timeCheck ∨ ∃ b, i = .rxByte b) ∧
    (t.out.enc ≠ none ↔ i = .encode) ∧ (t.out.val ≠ none ↔ i = .validate) ∧
    (t.out.tel ≠ none ↔ ∃ v, i = .telemDecode v) ∧ t.out.kind = none

/-- 20_memory.md R57: ENCODE, VALIDATE and TELEM_DECODE neither read nor write the synchronizer's record, and repeating one
answers the same. -/
def Obligations.PureOperationsAreIdempotentAndBlindToTheRecord : Prop :=
  ∀ (s : State) (r : Receive) (i : Instr), i = .encode ∨ i = .validate ∨ (∃ v, i = .telemDecode v) →
    ∃ o, exec i s = .next { s with out := o } ∧ exec i { s with out := o } = .next { s with out := o } ∧
      exec i { s with rx := r } = .next { s with rx := r, out := o }

/-- 10_state.md R37, 20_memory.md R64: no output of any run depends on the buffer at or past the cursor, nor on `tLast` in
AWAIT_START; so none depends on the reset values the model chose (log 4, log 5). -/
def Obligations.StaleBytesAndIdleTimeAreUnobservable : Prop :=
  ∀ (n : Nat) (s₁ s₂ : State), s₁.Inv → s₂.Inv → s₁.params = s₂.params → s₁.script = s₂.script → s₁.rx.Agrees s₂.rx →
    outputTrace n s₁ = outputTrace n s₂

/-- 60_exceptions.md R200: the codes of the statuses and causes, and 10_state.md R21: those of the phases. -/
def Obligations.StatusAndPhaseCodes : Prop :=
  Status.ok.code = 0#3 ∧ Status.rxTimeout.code = 1#3 ∧ Status.rxOversize.code = 2#3 ∧ Status.checksumMismatch.code = 3#3 ∧
    Status.frameMalformed.code = 4#3 ∧ Status.shortPayload.code = 5#3 ∧ Phase.awaitStart.code = 0#2 ∧
    Phase.readHeader.code = 1#2 ∧ Phase.readBody.code = 2#2 ∧ Phase.frameReady.code = 3#2
end

