-- ==== Sys2Proof/Laws/Decode.lean ====
section
/-! SUPPORT. The fields of a command word and of its parts, and all the classifier can answer. -/

namespace Sys2Proof

@[simp] theorem cmdOp_commandWord (op : BitVec 3) (v : BitVec 1) (imm : Byte) : cmdOp (commandWord op v imm) = op := by
  ext i hi
  simp only [cmdOp, commandWord, BitVec.getElem_extractLsb']
  interval_cases i <;> simp only [BitVec.getLsbD_append] <;> simp

@[simp] theorem cmdV_commandWord (op : BitVec 3) (v : BitVec 1) (imm : Byte) : cmdV (commandWord op v imm) = v := by
  ext i hi
  simp only [cmdV, commandWord, BitVec.getElem_extractLsb']
  interval_cases i
  simp only [BitVec.getLsbD_append]
  simp

@[simp] theorem cmdRes_commandWord (op : BitVec 3) (v : BitVec 1) (imm : Byte) : cmdRes (commandWord op v imm) = 0#4 := by
  ext i hi
  simp only [cmdRes, commandWord, BitVec.getElem_extractLsb']
  interval_cases i <;> simp only [BitVec.getLsbD_append] <;> simp

@[simp] theorem cmdImm_commandWord (op : BitVec 3) (v : BitVec 1) (imm : Byte) : cmdImm (commandWord op v imm) = imm := by
  ext i hi
  simp only [cmdImm, commandWord, BitVec.getElem_extractLsb']
  interval_cases i <;> simp only [BitVec.getLsbD_append] <;> simp

@[simp] theorem cmdOp_append (op : BitVec 3) (x : BitVec 13) : cmdOp (op ++ x) = op := by
  ext i hi
  simp only [cmdOp, BitVec.getElem_extractLsb']
  interval_cases i <;> simp only [BitVec.getLsbD_append] <;> simp

@[simp] theorem cmdFree_append (op : BitVec 3) (x : BitVec 13) : cmdFree (op ++ x) = x := by
  ext i hi
  simp only [cmdFree, BitVec.getElem_extractLsb']
  interval_cases i <;> simp only [BitVec.getLsbD_append] <;> simp

/-- A word is its four fields. -/
theorem cmd_fields (w : Word) : (cmdOp w ++ cmdV w ++ cmdRes w ++ cmdImm w : Word) = w := by
  ext i hi
  simp only [BitVec.getElem_append, cmdOp, cmdV, cmdRes, cmdImm]
  interval_cases i <;> simp [BitVec.getLsbD_eq_getElem]

/-- A word is its operation field and its other bits. -/
theorem cmd_op_free (w : Word) : (cmdOp w ++ cmdFree w : Word) = w := by
  ext i hi
  simp only [BitVec.getElem_append, cmdOp, cmdFree]
  interval_cases i <;> simp [BitVec.getLsbD_eq_getElem]

/-- A word is its two bytes. -/
theorem word_bytes (w : Word) : (w.extractLsb' 8 8 ++ w.extractLsb' 0 8 : Word) = w := by
  ext i hi
  simp only [BitVec.getElem_append]
  interval_cases i <;> simp [BitVec.getLsbD_eq_getElem]

@[simp] theorem high_byte_append (c f : Byte) : (c ++ f : Word).extractLsb' 8 8 = c := by
  ext i hi
  simp only [BitVec.getElem_extractLsb']
  interval_cases i <;> simp only [BitVec.getLsbD_append] <;> simp

@[simp] theorem low_byte_append (c f : Byte) : (c ++ f : Word).extractLsb' 0 8 = f := by
  ext i hi
  simp only [BitVec.getElem_extractLsb']
  interval_cases i <;> simp only [BitVec.getLsbD_append] <;> simp

/-- All the classifier can answer: a recognised pair its kind, any other pair `unknown`. -/
theorem classify_cases (c f : Byte) :
    (c = 0x00#8 ∧ f = 0x00#8 ∧ classify c f = .discovery) ∨ (c = 0x00#8 ∧ f = 0x80#8 ∧ classify c f = .regRequest) ∨
    (c = 0x00#8 ∧ f = 0x01#8 ∧ classify c f = .addrAssign) ∨ (c = 0x00#8 ∧ f = 0x81#8 ∧ classify c f = .addrConfirm) ∨
    (c = 0x00#8 ∧ f = 0x02#8 ∧ classify c f = .remove) ∨ (c = 0x01#8 ∧ f = 0x01#8 ∧ classify c f = .infoRequest) ∨
    (c = 0x01#8 ∧ f = 0x81#8 ∧ classify c f = .infoResponse) ∨
    (recognisedPairs.contains (c, f) = false ∧ classify c f = .unknown) := by
  unfold classify
  split
  · simp_all
  split
  · simp_all
  split
  · simp_all
  split
  · simp_all
  split
  · simp_all
  split
  · simp_all
  split
  · simp_all
  · simp_all [recognisedPairs]

end Sys2Proof
end

