-- ==== Sys2Proof/Laws/Memory.lean ====
section
/-! SUPPORT. The buffer's laws: a read after a write, and the canonical form kept by every operation. -/

namespace Sys2Proof.Machine

/-- What the canonical form says of a non-empty list. -/
theorem Memory.wf_cons {cap k : Nat} {v : Byte} {rest : Memory} :
    Memory.wf cap ((k, v) :: rest) = true ↔
      k < cap ∧ v ≠ Config.bufFill ∧ (∀ c ∈ rest, k < c.1) ∧ Memory.wf cap rest = true := by
  simp [Memory.wf, and_assoc]

/-- An index below every listed one reads as the fill. -/
theorem Memory.read_of_all_lt (m : Memory) (a : Nat) (h : ∀ c ∈ m, a < c.1) : m.read a = Config.bufFill := by
  induction m with
  | nil => rfl
  | cons c rest ih =>
    obtain ⟨k, v⟩ := c
    have hk : a < k := h (k, v) (by simp)
    simp only [Memory.read, if_neg (show k ≠ a by omega)]
    exact ih fun c hc => h c (by simp [hc])

/-- Every index a write lists is the one written or was listed before. -/
theorem Memory.mem_write {m : Memory} {a : Nat} {b : Byte} {c : Host.Cell} (h : c ∈ m.write a b) : c.1 = a ∨ c ∈ m := by
  induction m with
  | nil =>
    simp only [Memory.write] at h
    split at h <;> simp_all
  | cons d rest ih =>
    obtain ⟨k, v⟩ := d
    simp only [Memory.write] at h
    split at h
    · split at h <;> simp_all
      rcases h with rfl | h | h <;> simp_all
    · split at h
      · split at h <;> simp_all
        rcases h with rfl | h <;> simp_all
      · simp only [List.mem_cons] at h
        rcases h with rfl | h
        · simp
        · rcases ih h with h | h <;> simp [h]

/-- A write inside the capacity keeps the canonical form. -/
theorem Memory.wf_write {cap : Nat} {m : Memory} {a : Nat} (b : Byte) (hm : m.wf cap = true) (ha : a < cap) :
    (m.write a b).wf cap = true := by
  induction m with
  | nil =>
    simp only [Memory.write]
    split
    · rfl
    · simp_all [Memory.wf]
  | cons d rest ih =>
    obtain ⟨k, v⟩ := d
    obtain ⟨hk, hv, hall, hrest⟩ := Memory.wf_cons.mp hm
    simp only [Memory.write]
    split
    · split
      · exact hm
      · refine Memory.wf_cons.mpr ⟨ha, by assumption, ?_, hm⟩
        intro c hc
        rcases List.mem_cons.mp hc with rfl | hc
        · assumption
        · exact lt_trans (by assumption) (hall c hc)
    · split
      · split
        · exact hrest
        · subst a
          exact Memory.wf_cons.mpr ⟨ha, by assumption, hall, hrest⟩
      · refine Memory.wf_cons.mpr ⟨hk, hv, ?_, ih hrest⟩
        intro c hc
        rcases Memory.mem_write hc with h | h
        · omega
        · exact hall c h

/-- A read after a write in a canonical buffer: the byte written at its index, what was there elsewhere. -/
theorem Memory.read_write {cap : Nat} {m : Memory} (a : Nat) (b : Byte) (x : Nat) (hm : m.wf cap = true) :
    (m.write a b).read x = if x = a then b else m.read x := by
  induction m with
  | nil =>
    by_cases hb : b = Config.bufFill
    · simp [Memory.write, Memory.read, hb]
    · simp [Memory.write, Memory.read, hb, eq_comm]
  | cons d rest ih =>
    obtain ⟨k, v⟩ := d
    obtain ⟨-, -, hall, hrest⟩ := Memory.wf_cons.mp hm
    simp only [Memory.write]
    split
    · rename_i hak
      have hfill : Memory.read ((k, v) :: rest) a = Config.bufFill := by
        refine Memory.read_of_all_lt _ _ fun c hc => ?_
        rcases List.mem_cons.mp hc with rfl | hc
        · exact hak
        · exact lt_trans hak (hall c hc)
      split
      · by_cases hx : x = a
        · subst hx
          simp_all
        · simp [hx]
      · by_cases hx : x = a
        · simp [Memory.read, hx]
        · simp [Memory.read, hx, Ne.symm hx]
    · split
      · subst a
        have hfill : Memory.read rest k = Config.bufFill := Memory.read_of_all_lt _ _ hall
        split
        · by_cases hx : x = k
          · subst hx
            simp_all
          · simp [Memory.read, hx, Ne.symm hx]
        · by_cases hx : x = k
          · simp [Memory.read, hx]
          · simp [Memory.read, hx, Ne.symm hx]
      · rename_i h1 h2
        simp only [Memory.read, ih hrest]
        by_cases hx : k = x
        · subst hx
          simp [Ne.symm h2]
        · simp [hx]

/-- All a checked store can do: store inside the capacity, or fault outside it. -/
theorem Memory.store_cases (cap : Nat) (m : Memory) (a : Nat) (b : Byte) :
    (a < cap ∧ Memory.store cap m a b = .ok (m.write a b)) ∨ (cap ≤ a ∧ Memory.store cap m a b = .error .bufferIndex) := by
  by_cases h : a < cap
  · exact .inl ⟨h, by simp [Memory.store, h]⟩
  · exact .inr ⟨by omega, by simp [Memory.store, h]⟩

/-- A checked store that answers keeps the canonical form. -/
theorem Memory.store_wf {cap : Nat} {m m' : Memory} {a : Nat} {b : Byte} (hm : m.wf cap = true)
    (h : Memory.store cap m a b = .ok m') : m'.wf cap = true := by
  rcases Memory.store_cases cap m a b with ⟨ha, h'⟩ | ⟨-, h'⟩
  · cases h.symm.trans h'
    exact Memory.wf_write b hm ha
  · cases h.symm.trans h'

/-- The buffer at reset has the canonical form. -/
theorem Memory.wf_reset (cap : Nat) : State.reset.rx.buf.wf cap = true := rfl

@[simp] theorem Memory.length_prefixBytes (m : Memory) (n : Nat) : (m.prefixBytes n).length = n := by
  simp [Memory.prefixBytes]

/-- Byte `i` of the buffer's first `n` bytes is the buffer's byte `i`. -/
theorem Memory.byteAt_prefixBytes (m : Memory) {n i : Nat} (h : i < n) : byteAt (m.prefixBytes n) i = m.read i := by
  simp [byteAt, Memory.prefixBytes, List.getD_eq_getElem?_getD, h]

end Sys2Proof.Machine
end

