-- ==== Sys2Proof/Laws/State.lean ====
section
/-! SUPPORT. What each update of the state leaves in each field: one lemma per field per update. -/

namespace Sys2Proof.Machine

@[simp] theorem State.withRx_params (s : State) (r : Receive) : (s.withRx r).params = s.params := rfl
@[simp] theorem State.withRx_rx (s : State) (r : Receive) : (s.withRx r).rx = r := rfl
@[simp] theorem State.withRx_ports (s : State) (r : Receive) : (s.withRx r).ports = s.ports := rfl
@[simp] theorem State.withRx_script (s : State) (r : Receive) : (s.withRx r).script = s.script := rfl
@[simp] theorem State.withRx_out (s : State) (r : Receive) : (s.withRx r).out = s.out := rfl

@[simp] theorem State.withOut_params (s : State) (o : Outputs) : (s.withOut o).params = s.params := rfl
@[simp] theorem State.withOut_rx (s : State) (o : Outputs) : (s.withOut o).rx = s.rx := rfl
@[simp] theorem State.withOut_ports (s : State) (o : Outputs) : (s.withOut o).ports = s.ports := rfl
@[simp] theorem State.withOut_script (s : State) (o : Outputs) : (s.withOut o).script = s.script := rfl
@[simp] theorem State.withOut_out (s : State) (o : Outputs) : (s.withOut o).out = o := rfl

@[simp] theorem State.sample_params (s : State) (p : Ports) (rest : List Ports) : (s.sample p rest).params = s.params := rfl
@[simp] theorem State.sample_rx (s : State) (p : Ports) (rest : List Ports) : (s.sample p rest).rx = s.rx := rfl
@[simp] theorem State.sample_ports (s : State) (p : Ports) (rest : List Ports) : (s.sample p rest).ports = p := rfl
@[simp] theorem State.sample_script (s : State) (p : Ports) (rest : List Ports) : (s.sample p rest).script = rest := rfl
@[simp] theorem State.sample_out (s : State) (p : Ports) (rest : List Ports) : (s.sample p rest).out = s.out := rfl

@[simp] theorem State.finishRx_params (s : State) (r : Receive) (e : Events) : (s.finishRx r e).params = s.params := rfl
@[simp] theorem State.finishRx_rx (s : State) (r : Receive) (e : Events) : (s.finishRx r e).rx = r := rfl
@[simp] theorem State.finishRx_ports (s : State) (r : Receive) (e : Events) : (s.finishRx r e).ports = s.ports := rfl
@[simp] theorem State.finishRx_script (s : State) (r : Receive) (e : Events) : (s.finishRx r e).script = s.script := rfl
@[simp] theorem State.finishRx_out (s : State) (r : Receive) (e : Events) : (s.finishRx r e).out = e.outputs := rfl

@[simp] theorem State.withFetchWord_params (s : State) (n w : Nat) : (s.withFetchWord n w).params = s.params := rfl
@[simp] theorem State.withFetchWord_rx (s : State) (n w : Nat) : (s.withFetchWord n w).rx = s.rx := rfl
@[simp] theorem State.withFetchWord_ports (s : State) (n w : Nat) : (s.withFetchWord n w).ports = s.ports := rfl
@[simp] theorem State.withFetchWord_out (s : State) (n w : Nat) : (s.withFetchWord n w).out = s.out := rfl
@[simp] theorem State.withFetchWord_script (s : State) (n w : Nat) :
    (s.withFetchWord n w).script = portsOfWord (BitVec.ofNat 16 w) :: s.script := rfl

@[simp] theorem Receive.frameReset_phase (r : Receive) : r.frameReset.phase = .awaitStart := rfl
@[simp] theorem Receive.frameReset_buf (r : Receive) : r.frameReset.buf = r.buf := rfl
@[simp] theorem Receive.frameReset_cur (r : Receive) : r.frameReset.cur = 0#9 := rfl
@[simp] theorem Receive.frameReset_rem (r : Receive) : r.frameReset.rem = 0#9 := rfl
@[simp] theorem Receive.frameReset_sync (r : Receive) : r.frameReset.sync = false := rfl
@[simp] theorem Receive.frameReset_prev (r : Receive) : r.frameReset.prev = 0x00#8 := rfl
@[simp] theorem Receive.frameReset_tLast (r : Receive) : r.frameReset.tLast = r.tLast := rfl

@[simp] theorem Events.outputs_frame (e : Events) : e.outputs.frame = e.frame := rfl
@[simp] theorem Events.outputs_diag (e : Events) : e.outputs.diag = e.diag := rfl
@[simp] theorem Events.outputs_enc (e : Events) : e.outputs.enc = .none := rfl
@[simp] theorem Events.outputs_val (e : Events) : e.outputs.val = .none := rfl
@[simp] theorem Events.outputs_tel (e : Events) : e.outputs.tel = .none := rfl
@[simp] theorem Events.outputs_kind (e : Events) : e.outputs.kind = .none := rfl
@[simp] theorem Events.none_outputs : Events.none.outputs = Outputs.none := rfl

end Sys2Proof.Machine
end

