-- ==== Sys2Proof/Laws/Ops.lean ====
section
/-! SUPPORT. For each shared operation, once, everything it can do. -/

namespace Sys2Proof.Machine

/-! ### Byte vectors -/

@[simp] theorem length_portBytes (n : Nat) (lines : List Byte) : (portBytes n lines).length = n := by
  simp [portBytes]; omega

/-- Byte `i` of an operand is line `i` of its port. -/
theorem byteAt_portBytes {n i : Nat} (lines : List Byte) (h : i < n) : byteAt (portBytes n lines) i = byteAt lines i := by
  simp only [byteAt, portBytes, List.getD_eq_getElem?_getD, List.getElem?_append, List.length_take, List.getElem?_take]
  by_cases hl : i < lines.length
  · simp [hl, h]
  · simp [hl, List.getElem?_replicate]
    split <;> rfl

/-- A vector presented with its own length is the operand. -/
theorem portBytes_length_self (lines : List Byte) : portBytes lines.length lines = lines := by simp [portBytes]

theorem length_slice (p : List Byte) (i j : Nat) : (slice p i j).length = min (j - i) (p.length - i) := by simp [slice]

/-- Byte `k` of `p[i .. j)` is byte `i + k` of `p`. -/
theorem byteAt_slice (p : List Byte) {i j k : Nat} (h : k < j - i) : byteAt (slice p i j) k = byteAt p (i + k) := by
  simp [byteAt, slice, List.getD_eq_getElem?_getD, h]

@[simp] theorem hi8_append_lo8 (w : Word) : hi8 w ++ lo8 w = w := by
  ext i hi
  simp only [hi8, lo8, BitVec.getElem_append, BitVec.getElem_extractLsb']
  split
  · simp [BitVec.getLsbD_eq_getElem hi]
  · rw [show 8 + (i - 8) = i by omega, BitVec.getLsbD_eq_getElem hi]

/-! ### The checksum -/

theorem sum16_toNat (p : List Byte) : (sum16 p).toNat = (p.map BitVec.toNat).sum % 65536 := by simp [sum16]

theorem sum16_append (p q : List Byte) : sum16 (p ++ q) = sum16 p + sum16 q := by
  simp [sum16, BitVec.ofNat_add]

@[simp] theorem length_frameHeader (o t c f n : Byte) : (frameHeader o t c f n).length = 7 := rfl

/-- What a serialized frame is: header, data, and the two bytes of the sum over both. -/
theorem serialize_eq (o t c f n : Byte) (d : List Byte) :
    serialize o t c f n d =
      (frameHeader o t c f n ++ d) ++ [hi8 (sum16 (frameHeader o t c f n ++ d)), lo8 (sum16 (frameHeader o t c f n ++ d))] :=
  rfl

@[simp] theorem length_serialize (o t c f n : Byte) (d : List Byte) : (serialize o t c f n d).length = d.length + 9 := by
  simp [serialize_eq]; omega

/-! ### VALIDATE_fn -/

/-- The structural checks, as the spec lists them. -/
theorem frameMalformed_iff (r : List Byte) :
    frameMalformed r = true ↔
      r.length < 9 ∨ byteAt r 0 ≠ 0xAA#8 ∨ byteAt r 1 ≠ 0x55#8 ∨ r.length ≠ (byteAt r 6).toNat + 9 := by
  simp only [frameMalformed, Bool.or_eq_true, decide_eq_true_eq, or_assoc]
  rfl

/-- All `VALIDATE_fn` can answer. -/
theorem validateFn_cases (r : List Byte) :
    (frameMalformed r = true ∧ validateFn r = (.frameMalformed, none)) ∨
    (frameMalformed r = false ∧ sum16 (slice r 0 (7 + (byteAt r 6).toNat)) = be16 r (7 + (byteAt r 6).toNat) ∧
      validateFn r = (.ok, some (parseFrame r))) ∨
    (frameMalformed r = false ∧ sum16 (slice r 0 (7 + (byteAt r 6).toNat)) ≠ be16 r (7 + (byteAt r 6).toNat) ∧
      validateFn r = (.checksumMismatch, some (parseFrame r))) := by
  by_cases hm : frameMalformed r = true
  · exact .inl ⟨hm, by simp [validateFn, hm]⟩
  · have hf : frameMalformed r = false := by simpa using hm
    by_cases hs : sum16 (slice r 0 (7 + (byteAt r 6).toNat)) = be16 r (7 + (byteAt r 6).toNat)
    · exact .inr (.inl ⟨hf, hs, by simp [validateFn, hf, parseFrame, hs]⟩)
    · exact .inr (.inr ⟨hf, hs, by simp [validateFn, hf, parseFrame, hs]⟩)

/-! ### Timeout and abandonment -/

theorem Receive.abandon_eq (cause : Status) (r : Receive) :
    r.abandon cause = (r.frameReset, { frame := none, diag := some cause }) := rfl

/-- The gap as an integer: it is the modular difference itself. -/
theorem gap_cast (p : Params) (now tLast : Nat) :
    (gap p now tLast : Int) = ((now : Int) - (tLast : Int)) % ((2 ^ p.timeBits : Nat) : Int) := by
  have hpos : (0 : Int) < ((2 ^ p.timeBits : Nat) : Int) := by exact_mod_cast Nat.two_pow_pos _
  exact Int.toNat_of_nonneg (Int.emod_nonneg _ hpos.ne')

/-- `expired` at the sampled time is the timeout condition. -/
theorem expired_iff (s : State) : s.rx.expired s.params s.now = true ↔ s.TimedOut := by
  have h := gap_cast s.params s.now s.rx.tLast
  simp only [Receive.expired, Bool.and_eq_true, decide_eq_true_eq, State.TimedOut]
  rw [← Int.ofNat_lt, h]
  rfl

/-- All `check_timeout` can do. -/
theorem Receive.checkTimeout_cases (p : Params) (now : Nat) (r : Receive) :
    (r.expired p now = true ∧ r.checkTimeout p now = (r.frameReset, { frame := none, diag := some .rxTimeout })) ∨
    (r.expired p now = false ∧ r.checkTimeout p now = (r, Events.none)) := by
  cases h : r.expired p now
  · exact .inr ⟨rfl, by simp [Receive.checkTimeout, h]⟩
  · exact .inl ⟨rfl, by simp [Receive.checkTimeout, h, Receive.abandon_eq]⟩

@[simp] theorem Events.none_orElse (e : Events) : Events.none.orElse e = e := by
  simp [Events.orElse, Events.none]

@[simp] theorem Events.orElse_none (e : Events) : e.orElse Events.none = e := by
  simp [Events.orElse, Events.none]

/-! ### The byte procedures -/

/-- All `on_await` can do. -/
theorem onAwait_cases (p : Params) (b : Byte) (r : Receive) :
    (r.prev = 0xAA#8 ∧ b = 0x55#8 ∧ 2 ≤ p.bufCap ∧
      onAwait p b r =
        .ok ({ r with
                buf := (r.buf.write 0 0xAA#8).write 1 0x55#8
                cur := 2#9
                rem := 0#9
                sync := true
                phase := .readHeader }, Events.none)) ∨
    (r.prev = 0xAA#8 ∧ b = 0x55#8 ∧ p.bufCap < 2 ∧ onAwait p b r = .error .bufferIndex) ∨
    (¬(r.prev = 0xAA#8 ∧ b = 0x55#8) ∧ onAwait p b r = .ok ({ r with prev := b }, Events.none)) := by
  by_cases h : r.prev = 0xAA#8 ∧ b = 0x55#8
  · by_cases h0 : 0 < p.bufCap
    · by_cases h1 : 1 < p.bufCap
      · exact .inl ⟨h.1, h.2, h1, by simp [onAwait, h, Config.mark0, Config.mark1, Memory.store, h0, h1]⟩
      · exact .inr (.inl ⟨h.1, h.2, by omega, by simp [onAwait, h, Config.mark0, Config.mark1, Memory.store, h0, h1]⟩)
    · exact .inr (.inl ⟨h.1, h.2, by omega, by simp [onAwait, h, Config.mark0, Config.mark1, Memory.store, h0]⟩)
  · exact .inr (.inr ⟨h, by unfold onAwait; exact if_neg h⟩)

/-- All storing a header or body byte can do. -/
theorem storeByte_cases (p : Params) (b : Byte) (r : Receive) :
    (r.cur.toNat < p.bufCap ∧
      storeByte p b r = .ok { r with buf := r.buf.write r.cur.toNat b, cur := r.cur + 1#9 }) ∨
    (p.bufCap ≤ r.cur.toNat ∧ storeByte p b r = .error .bufferIndex) := by
  rcases Memory.store_cases p.bufCap r.buf r.cur.toNat b with ⟨h, h'⟩ | ⟨h, h'⟩
  · exact .inl ⟨h, by simp [storeByte, h']⟩
  · exact .inr ⟨h, by simp [storeByte, h']⟩

/-- All the end of a header can do. -/
theorem headerComplete_cases (p : Params) (r : Receive) :
    (p.maxDataLen < (r.buf.read 6).toNat ∧
      headerComplete p r = (r.frameReset, { frame := none, diag := some .rxOversize })) ∨
    ((r.buf.read 6).toNat ≤ p.maxDataLen ∧
      headerComplete p r = ({ r with rem := bytesRemaining (r.buf.read 6), phase := .readBody }, Events.none)) := by
  by_cases h : p.maxDataLen < (r.buf.read 6).toNat
  · exact .inl ⟨h, by simp [headerComplete, h, Receive.abandon_eq]⟩
  · exact .inr ⟨by omega, by simp [headerComplete, h]⟩

/-- `dataLength + 2` fits its nine bits. -/
theorem bytesRemaining_toNat (len : Byte) : (bytesRemaining len).toNat = len.toNat + 2 := by
  simp [bytesRemaining, Config.trlLen, BitVec.toNat_add, BitVec.toNat_setWidth]
  omega

/-- All `on_header` can do. -/
theorem onHeader_cases (p : Params) (b : Byte) (r : Receive) :
    (p.bufCap ≤ r.cur.toNat ∧ onHeader p b r = .error .bufferIndex) ∨
    (r.cur.toNat < p.bufCap ∧ r.cur ≠ 6#9 ∧
      onHeader p b r = .ok ({ r with buf := r.buf.write r.cur.toNat b, cur := r.cur + 1#9 }, Events.none)) ∨
    (6 < p.bufCap ∧ r.cur = 6#9 ∧
      onHeader p b r = .ok (headerComplete p { r with buf := r.buf.write 6 b, cur := 7#9 })) := by
  rcases storeByte_cases p b r with ⟨h, h'⟩ | ⟨h, h'⟩
  · by_cases h6 : r.cur = 6#9
    · rw [h6] at h h'
      exact .inr (.inr ⟨by simpa using h, h6, by simp [onHeader, h', headerEnd, Config.hdrLen]⟩)
    · have h7 : r.cur + 1#9 ≠ 7#9 := by
        intro h7
        apply h6
        have := congrArg (· - 1#9) h7
        simpa using this
      exact .inr (.inl ⟨h, h6, by simp [onHeader, h', headerEnd, Config.hdrLen, h7]⟩)
  · exact .inl ⟨h, by simp [onHeader, h']⟩

/-- What `complete` does: always a frame reset; a frame exactly when its checksum matches. -/
theorem complete_eq (r : Receive) :
    complete r =
      (r.frameReset,
        { frame :=
            if (validateFn (r.buf.prefixBytes r.cur.toNat)).1 = .ok then (validateFn (r.buf.prefixBytes r.cur.toNat)).2
            else none
          diag := none }) := rfl

/-- All `on_body` can do. -/
theorem onBody_cases (p : Params) (b : Byte) (r : Receive) :
    (p.bufCap ≤ r.cur.toNat ∧ onBody p b r = .error .bufferIndex) ∨
    (r.cur.toNat < p.bufCap ∧ r.rem ≠ 1#9 ∧
      onBody p b r =
        .ok ({ r with buf := r.buf.write r.cur.toNat b, cur := r.cur + 1#9, rem := r.rem - 1#9 }, Events.none)) ∨
    (r.cur.toNat < p.bufCap ∧ r.rem = 1#9 ∧
      onBody p b r =
        .ok (complete { r with
              buf := r.buf.write r.cur.toNat b, cur := r.cur + 1#9, rem := 0#9, phase := .frameReady })) := by
  rcases storeByte_cases p b r with ⟨h, h'⟩ | ⟨h, h'⟩
  · by_cases h1 : r.rem = 1#9
    · exact .inr (.inr ⟨h, h1, by simp [onBody, h', h1]⟩)
    · have h0 : r.rem - 1#9 ≠ 0#9 := by
        intro h0
        apply h1
        have := congrArg (· + 1#9) h0
        simpa using this
      exact .inr (.inl ⟨h, h1, by simp [onBody, h', h0]⟩)
  · exact .inl ⟨h, by simp [onBody, h']⟩

/-! ### Telemetry -/

/-- All the telemetry decoder can answer. -/
theorem decodeTelemetry_cases (p : Params) (v : Variant) (payload : List Byte) :
    (payload.length < p.minTelemLen ∧ decodeTelemetry p v payload = { status := .shortPayload, record := none }) ∨
    (p.minTelemLen ≤ payload.length ∧
      decodeTelemetry p v payload = { status := .ok, record := some (telemetryRecord p v payload) }) := by
  by_cases h : payload.length < p.minTelemLen
  · exact .inl ⟨h, by simp [decodeTelemetry, h]⟩
  · exact .inr ⟨by omega, by simp [decodeTelemetry, h]⟩

/-- A record's word fields are the extracted ones. -/
@[simp] theorem telemetryRecord_get (p : Params) (v : Variant) (payload : List Byte) (f : TelField) :
    (telemetryRecord p v payload).get f = extractField p v payload f := by cases f <;> rfl

/-- All a word field can be. -/
theorem extractField_eq_some {p : Params} {v : Variant} {payload : List Byte} {f : TelField} {w : TelWord} :
    extractField p v payload f = some w ↔
      ∃ off, fieldOffset p v f = some off ∧ off + 2 ≤ payload.length ∧
        w = { raw := be16 payload off, scale := fieldScale p f } := by
  unfold extractField
  split
  · simp_all
  · rename_i off h
    by_cases h2 : off + 2 ≤ payload.length <;> simp [h, h2, eq_comm]

/-- A present field carries the scale of its field and no other. -/
theorem extractField_scale {p : Params} {v : Variant} {payload : List Byte} {f : TelField} {w : TelWord}
    (h : extractField p v payload f = some w) : w.scale = fieldScale p f := by
  obtain ⟨off, -, -, rfl⟩ := extractField_eq_some.1 h
  rfl

/-- With valid parameters every scale divides: none is 0 (00_scope.md R6). -/
theorem fieldScale_pos {p : Params} (hp : p.Valid) (f : TelField) : 1 ≤ fieldScale p f := by
  obtain ⟨-, -, -, -, hv, hi, ht, hf, hpw, hm, he⟩ := hp
  cases f <;> assumption

/-- The value of a field with a scale of at least 1, times that scale, is its raw word. -/
theorem TelWord.value_mul_scale (w : TelWord) (h : 1 ≤ w.scale) : w.value * (w.scale : Rat) = (w.raw.toNat : Rat) :=
  div_mul_cancel₀ _ (Nat.cast_ne_zero.2 (by omega))

end Sys2Proof.Machine
end

