-- ==== Sys2Proof/Laws/PerInstr.lean ====
section
/-! SUPPORT. Statements made for every instruction, one lemma per constructor: an instruction's word lies in its row of the
opcode table (30_encoding.md R80: `word & mask = match`). -/

namespace Sys2Proof.Laws

/-- The word of an instruction matches the `match` and `mask` of its row. -/
def WordInRow.Statement (i : Instr) : Prop := encode i &&& i.rowMask = i.rowMatch

theorem WordInRow.timeCheck : WordInRow.Statement .timeCheck := rfl
theorem WordInRow.rxByte (b : Byte) : WordInRow.Statement (.rxByte b) := by
  simp only [WordInRow.Statement, encode, Instr.rowMask, Instr.rowMatch, commandWord]
  ext i hi
  simp only [BitVec.getElem_and, BitVec.getElem_append]
  interval_cases i <;> simp
theorem WordInRow.reset : WordInRow.Statement .reset := rfl
theorem WordInRow.encode : WordInRow.Statement .encode := rfl
theorem WordInRow.validate : WordInRow.Statement .validate := rfl
theorem WordInRow.telemDecode (v : Variant) : WordInRow.Statement (.telemDecode v) := by cases v <;> rfl
theorem WordInRow.frameDiscovery : WordInRow.Statement .frameDiscovery := rfl
theorem WordInRow.frameRegRequest : WordInRow.Statement .frameRegRequest := rfl
theorem WordInRow.frameAddrAssign : WordInRow.Statement .frameAddrAssign := rfl
theorem WordInRow.frameAddrConfirm : WordInRow.Statement .frameAddrConfirm := rfl
theorem WordInRow.frameRemove : WordInRow.Statement .frameRemove := rfl
theorem WordInRow.frameInfoRequest : WordInRow.Statement .frameInfoRequest := rfl
theorem WordInRow.frameInfoResponse : WordInRow.Statement .frameInfoResponse := rfl
theorem WordInRow.frameUnknown (control function : Byte) : WordInRow.Statement (.frameUnknown control function) := by
  simp [WordInRow.Statement, Instr.rowMask, Instr.rowMatch]
theorem WordInRow.reservedOp110 (x : BitVec 13) : WordInRow.Statement (.reservedOp110 x) := by
  simp only [WordInRow.Statement, Sys2Proof.encode, Instr.rowMask, Instr.rowMatch]
  ext i hi
  simp only [BitVec.getElem_and, BitVec.getElem_append]
  interval_cases i <;> simp
theorem WordInRow.reservedOp111 (x : BitVec 13) : WordInRow.Statement (.reservedOp111 x) := by
  simp only [WordInRow.Statement, Sys2Proof.encode, Instr.rowMask, Instr.rowMatch]
  ext i hi
  simp only [BitVec.getElem_and, BitVec.getElem_append]
  interval_cases i <;> simp

end Sys2Proof.Laws
end

