-- ==== Sys2Proof/Laws/Step.lean ====
section
/-! SUPPORT. What a step and each family of meanings can do. -/

namespace Sys2Proof.Machine

/-- All a step that answers a next state can be: a command presented, decoded and run. -/
theorem step_cases {s t : State} (h : step s = .next t) :
    ∃ p rest i, s.script = p :: rest ∧ decodeCommand p.cmd = .ok i ∧ exec i (s.sample p rest) = .next t := by
  unfold step at h
  split at h
  · cases h
  · rename_i p rest hs
    unfold fetchCommand at h
    split at h
    · cases h
    · rename_i i hi
      exact ⟨p, rest, i, hs, hi, h⟩

/-- All a step that faults can be. -/
theorem step_fault_cases {s : State} {f : Fault} (h : step s = .fault f) :
    ∃ p rest i, s.script = p :: rest ∧ decodeCommand p.cmd = .ok i ∧ exec i (s.sample p rest) = .fault f := by
  unfold step at h
  split at h
  · cases h
  · rename_i p rest hs
    unfold fetchCommand at h
    split at h
    · cases h
    · rename_i i hi
      exact ⟨p, rest, i, hs, hi, h⟩

/-- The codec, the telemetry decoder and the FRAME rows change the outputs and nothing else. -/
theorem exec_pure_cases {i : Instr} (s : State) (h : i = .encode ∨ i = .validate ∨ (∃ v, i = .telemDecode v) ∨ i.format = .frameCf) :
    ∃ o : Outputs, o.frame = none ∧ o.diag = none ∧ exec i s = .next (s.withOut o) := by
  rcases h with rfl | rfl | ⟨v, rfl⟩ | h
  · exact ⟨_, rfl, rfl, rfl⟩
  · exact ⟨_, rfl, rfl, rfl⟩
  · exact ⟨_, rfl, rfl, rfl⟩
  · cases i <;> first | exact ⟨_, rfl, rfl, rfl⟩ | cases h

/-- All `TIME_CHECK` can do. -/
theorem execTimeCheck_cases (s : State) :
    (s.rx.expired s.params s.now = true ∧
      execTimeCheck s = .next (s.finishRx s.rx.frameReset { frame := none, diag := some .rxTimeout })) ∨
    (s.rx.expired s.params s.now = false ∧ execTimeCheck s = .next (s.finishRx s.rx Events.none)) := by
  rcases Receive.checkTimeout_cases s.params s.now s.rx with ⟨h, h'⟩ | ⟨h, h'⟩
  · exact .inl ⟨h, by simp [execTimeCheck, h']⟩
  · exact .inr ⟨h, by simp [execTimeCheck, h']⟩

/-- A byte after the window has closed: it is taken in `AWAIT_START` with no previous byte, so it starts no frame. -/
theorem execRxByte_expired {b : Byte} {s : State} (h : s.rx.expired s.params s.now = true) :
    execRxByte b s =
      .next (s.finishRx { s.rx.frameReset with prev := b, tLast := s.now } { frame := none, diag := some .rxTimeout }) := by
  rcases Receive.checkTimeout_cases s.params s.now s.rx with ⟨-, h'⟩ | ⟨h0, -⟩
  · simp [execRxByte, h', onByte, onAwait, Receive.frameReset, Config.mark0]
  · simp [h] at h0

/-- A byte within the window: `tLast` is written and the byte goes to its phase's procedure. -/
theorem execRxByte_live {b : Byte} {s : State} (h : s.rx.expired s.params s.now = false) :
    execRxByte b s =
      match onByte s.params b { s.rx with tLast := s.now } with
      | .error f => .fault f
      | .ok x => .next (s.finishRx x.1 x.2) := by
  rcases Receive.checkTimeout_cases s.params s.now s.rx with ⟨h0, -⟩ | ⟨-, h'⟩
  · simp [h] at h0
  · simp only [execRxByte, h']
    cases onByte s.params b { s.rx with tLast := s.now } with
    | error f => rfl
    | ok x => simp

end Sys2Proof.Machine
end

