-- ==== Sys2Proof/Tests/Slice0.lean ====
section
/-! SUPPORT. The model's own tests: decoding of words written out from the spec's encodings, the well-formedness smoke test, single
steps with the results of spec/95_test_vectors.md, and one witness per statement that has hypotheses. -/

namespace Sys2Proof.Tests

open Sys2Proof Sys2Proof.Machine

/-! ### Small states -/

/-- The default parameters with a concrete EDAY_SCALE, so that a test can be evaluated. -/
def params : Params := { Config.defaults with edayScale := 10 }

/-- A buffer holding bytes from index 0. -/
def bufferOf (bytes : List Byte) : Memory :=
  (bytes.zipIdx.filter fun x => decide (x.1 ≠ Config.bufFill)).map fun x => (x.2, x.1)

/-- A state written as spec/95_test_vectors.md writes it, `ph/cur/rem/sync/prev/tLast`, and the time of its step. -/
def stateAt (phase : Phase) (buf : List Byte) (cur rem : BitVec 9) (prev : Byte) (tLast now : Nat) : State :=
  { State.reset with
    params := params
    rx := { phase := phase, buf := bufferOf buf, cur := cur, rem := rem, sync := syncOf phase, prev := prev, tLast := tLast }
    ports := { Ports.zero with now := now } }

/-- A state with ports to be sampled by the next steps. -/
def scripted (s : State) (lines : List AsmLine) : State := { s with script := lines.map AsmLine.ports }

/-- The synchronizer's part of an answer: the record without its buffer, and the events. -/
structure Seen where
  phase : Phase
  cur : Nat
  rem : Nat
  sync : Bool
  prev : Byte
  tLast : Nat
  frame : Option FrameRecord
  diag : Option Status
deriving DecidableEq, Repr

/-- What a step shows of the synchronizer. -/
def seen : Outcome → Option Seen
  | .next t => some ⟨t.rx.phase, t.rx.cur.toNat, t.rx.rem.toNat, t.rx.sync, t.rx.prev, t.rx.tLast, t.out.frame, t.out.diag⟩
  | _ => none

/-- The answer's outputs. -/
def outputs : Outcome → Option Outputs
  | .next t => some t.out
  | _ => none

/-- Frame E4 without its last byte, the buffer of vectors Y16 and Y17. -/
def confirmHead : List Byte := [0xAA#8, 0x55#8, 0x01#8, 0xAB#8, 0x00#8, 0x81#8, 0x00#8, 0x02#8]

/-- The start of vectors Y16 and Y17: one byte before the end of frame E4. -/
def lastByteState : State := stateAt .readBody confirmHead 8#9 1#9 0xAA#8 7 8

/-- A header in progress with `cur` bytes held. -/
def headerState (cur : BitVec 9) (tLast now : Nat) : State :=
  stateAt .readHeader [0xAA#8, 0x55#8, 0x01#8, 0xAB#8, 0x00#8, 0x81#8] cur 0#9 0xAA#8 tLast now

/-- Hunting for the marker. -/
def huntState (prev : Byte) (now : Nat) : State := stateAt .awaitStart [] 0#9 0#9 prev 5 now

/-- A state with a smaller `MAX_DATA_LEN` (vectors Y6, P5). -/
def withMaxDataLen (n : Nat) (s : State) : State := { s with params := { s.params with maxDataLen := n } }

/-- The first 18 bytes of payload T1. -/
def t1Head : List Byte :=
  [0x09#8, 0x60#8, 0x00#8, 0x00#8, 0x00#8, 0x23#8, 0x00#8, 0x00#8, 0x09#8, 0x15#8, 0x00#8, 0x30#8, 0x13#8, 0x88#8, 0x04#8,
    0x55#8, 0x00#8, 0x01#8]

/-- Payload T1 (95_test_vectors.md 2.7). -/
def t1 : List Byte :=
  t1Head ++ (List.range 26).map (fun i => BitVec.ofNat 8 (i + 1)) ++ [0x01#8, 0xA4#8, 0x00#8, 0x37#8]

/-- A state whose telemetry port holds the first `n` bytes of T1. -/
def telemState (n : Nat) : State :=
  { State.reset with params := params, ports := { Ports.zero with telLen := BitVec.ofNat 8 n, telPayload := t1.take n } }

/-- The same with the default parameters. -/
def defaultTelemState (n : Nat) : State := { telemState n with params := Config.defaults }

/-- Some fields of a telemetry answer. -/
structure TelSeen where
  status : Status
  fields : Option (List (Option Nat))
  scales : Option (List (Option Nat))
  reserved : Option Nat
deriving DecidableEq, Repr

/-- The fields vpv1, vac1, vac2, fac1, pac, workMode, temp, eDay and the number of reserved bytes of a telemetry answer. -/
def telemSeen (o : Outcome) : Option TelSeen :=
  (outputs o).bind fun x => x.tel.map fun t =>
    { status := t.status
      fields := t.record.map fun r =>
        [TelField.vpv1, .vac1, .vac2, .fac1, .pac, .workMode, .temp, .eDay].map fun f => (r.get f).map fun w => w.raw.toNat
      scales := t.record.map fun r => [TelField.vac1, .fac1, .pac, .eDay].map fun f => (r.get f).map TelWord.scale
      reserved := t.record.map fun r => r.reserved.length }

/-- A state whose validate port holds a frame. -/
def validateState (r : List Byte) : State :=
  { State.reset with params := params, ports := { Ports.zero with valLen := BitVec.ofNat 9 r.length, valFrame := r } }

/-- The record of frame E4. -/
def confirmRecord (crc : Word) : FrameRecord :=
  { origin := 0x01#8
    target := 0xAB#8
    control := 0x00#8
    function := 0x81#8
    len := 0x00#8
    data := []
    crc := crc
    kind := .addrConfirm }

/-! ### Well-formedness and decoding -/

/-- 30_encoding.md R97: a recognised pair is no FRAME.UNKNOWN. -/
theorem test_wellFormed_refuses_recognised_pair : (Instr.frameUnknown 0x00#8 0x80#8).wellFormed = false := by decide

/-- 30_encoding.md R97: vectors K8 and K9. -/
theorem test_wellFormed_takes_unknown_pairs :
    [(0x01#8, 0x00#8), (0x00#8, 0x82#8), (0x02#8, 0x03#8), (0x81#8, 0x00#8), (0xFF#8, 0xFF#8), (0x01#8, 0x02#8)].all
      (fun x => (Instr.frameUnknown x.1 x.2).wellFormed) = true := by decide

/-- 95_test_vectors.md W1 to W9: the six operations, bit by bit as 30_encoding.md R80 writes them. -/
theorem test_decode_operations :
    decodeCommand 0b0000000000000000#16 = .ok .timeCheck ∧
    decodeCommand 0b0010000010101010#16 = .ok (.rxByte 0xAA#8) ∧
    decodeCommand 0b0100000000000000#16 = .ok .reset ∧
    decodeCommand 0b0110000000000000#16 = .ok .encode ∧
    decodeCommand 0b1000000000000000#16 = .ok .validate ∧
    decodeCommand 0b1010000000000000#16 = .ok (.telemDecode .single) ∧
    decodeCommand 0b1011000000000000#16 = .ok (.telemDecode .three) := by decide

/-- 95_test_vectors.md W16: the reserved rows keep their free bits. -/
theorem test_decode_reserved_rows :
    decodeCommand 0xC000#16 = .ok (.reservedOp110 0#13) ∧ decodeCommand 0xE000#16 = .ok (.reservedOp111 0#13) ∧
    decodeCommand 0xFFFF#16 = .ok (.reservedOp111 0x1FFF#13) := by decide

/-- 95_test_vectors.md W10 to W15 and W17: refused words. -/
theorem test_decode_refuses_illegal_words :
    [0x0001#16, 0x1000#16, 0x3055#16, 0x2100#16, 0xA800#16, 0xB001#16, 0x4001#16, 0x6100#16, 0x9000#16].all
      (fun w => match decodeCommand w with | .ok _ => false | .error _ => true) = true := by decide

/-- 30_encoding.md R90 to R96: each pair, control in the high byte. -/
theorem test_decode_frame_rows :
    decodeAs .frameCf 0x0000#16 = .ok .frameDiscovery ∧ decodeAs .frameCf 0x0080#16 = .ok .frameRegRequest ∧
    decodeAs .frameCf 0x0001#16 = .ok .frameAddrAssign ∧ decodeAs .frameCf 0x0081#16 = .ok .frameAddrConfirm ∧
    decodeAs .frameCf 0x0002#16 = .ok .frameRemove ∧ decodeAs .frameCf 0x0101#16 = .ok .frameInfoRequest ∧
    decodeAs .frameCf 0x0181#16 = .ok .frameInfoResponse ∧
    decodeAs .frameCf 0x0203#16 = .ok (.frameUnknown 0x02#8 0x03#8) := by decide

/-- The table's numbering: a word that no command row takes is a FRAME row's (log 6). -/
theorem test_decodeTableWord :
    decodeTableWord 16 0x20AA = some (.rxByte 0xAA#8) ∧ decodeTableWord 16 0x0181 = some .frameInfoResponse ∧
    decodeTableWord 16 0x0102 = some (.frameUnknown 0x01#8 0x02#8) ∧ decodeTableWord 8 0x00 = none := by decide

/-! ### Single steps -/

/-- 95_test_vectors.md Y9. -/
theorem test_timeCheck_abandons_after_501 :
    seen (exec .timeCheck (headerState 4#9 103 604)) =
      some ⟨.awaitStart, 0, 0, false, 0x00#8, 103, none, some .rxTimeout⟩ := by decide

/-- 95_test_vectors.md Y19: the clock wraps and the gap is 499. -/
theorem test_timeCheck_wraps :
    seen (exec .timeCheck (headerState 2#9 0xFFFFFFF0 483)) =
      some ⟨.readHeader, 2, 0, true, 0xAA#8, 0xFFFFFFF0, none, none⟩ := by decide

/-- 95_test_vectors.md Y16: the last byte of frame E4 emits it. -/
theorem test_rxByte_emits_the_frame :
    seen (exec (.rxByte 0x2C#8) lastByteState) =
      some ⟨.awaitStart, 0, 0, false, 0x00#8, 8, some (confirmRecord 0x022C#16), none⟩ := by decide

/-- 95_test_vectors.md Y6: a length over MAX_DATA_LEN. -/
theorem test_rxByte_oversize :
    seen (exec (.rxByte 0x41#8) (withMaxDataLen 64 (headerState 6#9 10 11))) =
      some ⟨.awaitStart, 0, 0, false, 0x00#8, 11, none, some .rxOversize⟩ := by decide

/-- 95_test_vectors.md Y15. -/
theorem test_reset_drops_the_frame :
    seen (exec .reset (stateAt .readBody confirmHead 8#9 3#9 0xAA#8 7 8)) =
      some ⟨.awaitStart, 0, 0, false, 0x00#8, 7, none, none⟩ := by decide

/-- 95_test_vectors.md E1, from its assembly line (30_encoding.md R85). -/
theorem test_encode_discovery :
    outputs (step (scripted State.reset [.encode 0xAB#8 0x7F#8 0x00#8 0x00#8 []])) =
      some { Outputs.none with
        enc := some
          { out := [0xAA#8, 0x55#8, 0xAB#8, 0x7F#8, 0x00#8, 0x00#8, 0x00#8, 0x02#8, 0x29#8], outLen := 9#9 } } := by decide

/-- 95_test_vectors.md V1 and V2. -/
theorem test_validate_statuses :
    outputs (exec .validate (validateState (confirmHead ++ [0x2C#8]))) =
      some { Outputs.none with val := some { status := .ok, fr := some (confirmRecord 0x022C#16) } } ∧
    outputs (exec .validate (validateState (confirmHead ++ [0x2D#8]))) =
      some { Outputs.none with val := some { status := .checksumMismatch, fr := some (confirmRecord 0x022D#16) } } := by decide

/-- 95_test_vectors.md V4 and V6: one byte too few, one too many. -/
theorem test_validate_malformed :
    outputs (exec .validate (validateState confirmHead)) =
      some { Outputs.none with val := some { status := .frameMalformed, fr := none } } ∧
    outputs (exec .validate (validateState (confirmHead ++ [0x2C#8, 0x00#8]))) =
      some { Outputs.none with val := some { status := .frameMalformed, fr := none } } := by decide

/-- 95_test_vectors.md T1-48, T1-45 and T1-43. -/
theorem test_telemDecode_single :
    telemSeen (exec (.telemDecode .single) (telemState 48)) =
      some ⟨.ok, some [some 2400, some 2325, none, some 5000, some 1109, some 1, some 420, some 55],
        some [some 10, some 100, some 1, some 10], some 26⟩ ∧
    telemSeen (exec (.telemDecode .single) (telemState 45)) =
      some ⟨.ok, some [some 2400, some 2325, none, some 5000, some 1109, some 1, none, none],
        some [some 10, some 100, some 1, none], some 26⟩ ∧
    telemSeen (exec (.telemDecode .single) (telemState 43)) = some ⟨.shortPayload, none, none, none⟩ := by decide

/-- 95_test_vectors.md T1-as-T. -/
theorem test_telemDecode_three :
    telemSeen (exec (.telemDecode .three) (telemState 48)) =
      some ⟨.ok, some [some 2400, some 2325, some 48, some 772, some 2314, some 2828, none, none],
        some [some 10, some 100, some 1, none], some 18⟩ := by decide

/-- 95_test_vectors.md K1 to K7: what each FRAME row answers is the kind its pair has. -/
theorem test_frame_rows_answer_their_kind :
    [Instr.frameDiscovery, .frameRegRequest, .frameAddrAssign, .frameAddrConfirm, .frameRemove, .frameInfoRequest,
        .frameInfoResponse, .frameUnknown 0x01#8 0x02#8].map
      (fun i => ((outputs (exec i State.reset)).bind Outputs.kind).map FrameKind.code) =
      [some 1#3, some 2#3, some 3#3, some 4#3, some 5#3, some 6#3, some 7#3, some 0#3] := by decide

/-- 30_encoding.md R90 to R96: the directions, in the order of the kinds' codes. -/
theorem test_kind_directions :
    [FrameKind.unknown, .discovery, .regRequest, .addrAssign, .addrConfirm, .remove, .infoRequest, .infoResponse].map
      kindDirection =
      [none, some .hostToBus, some .deviceToHost, some .hostToDevice, some .deviceToHost, some .hostToDevice,
        some .hostToDevice, some .deviceToHost] := by decide

/-- 30_encoding.md R82: the reserved rows refuse. -/
theorem test_reserved_rows_refuse :
    exec (.reservedOp110 0#13) State.reset = .refused .reservedOp110 ∧
    exec (.reservedOp111 0#13) State.reset = .refused .reservedOp111 := ⟨rfl, rfl⟩

/-- The host's entry: a placed command word runs as the first step after reset, a placed pair is classified. -/
theorem test_withFetchWord_from_reset :
    seen (step (State.reset.withFetchWord 16 0x20AA)) = some ⟨.awaitStart, 0, 0, false, 0xAA#8, 0, none, none⟩ ∧
    (outputs (step (State.reset.withFetchWord 16 0x0181))).map (fun o => o.val.map fun v => v.fr.map FrameRecord.kind) =
      some (some (some .infoResponse)) := by decide

/-! ### Witnesses: each shows that the hypotheses of one statement can all hold -/

/-- Of StepRunsTheDecodedOperation, and of OutputsComeOnlyFromTheirOperations. -/
theorem witness_StepRunsTheDecodedOperation :
    let s := scripted State.reset [.rx 1 0xAA#8]
    s.script = (AsmLine.rx 1 0xAA#8).ports :: [] ∧ decodeCommand (AsmLine.rx 1 0xAA#8).ports.cmd = .ok (.rxByte 0xAA#8) ∧
      ∃ t, step s = .next t := ⟨rfl, rfl, _, rfl⟩

/-- Of NoStepWithoutAnOperation. -/
theorem witness_NoStepWithoutAnOperation : State.reset.script = [] := rfl

/-- Of StepKeepsParametersAndTakesOneInput. -/
theorem witness_StepKeepsParametersAndTakesOneInput : ∃ t, step (scripted State.reset [.tick 0, .reset]) = .next t := ⟨_, rfl⟩

/-- Of PlacedWordIsRunByTheNextStep: a word for each clause. -/
theorem witness_PlacedWordIsRunByTheNextStep :
    decodeCommand 0x20FF#16 = .ok (.rxByte 0xFF#8) ∧ decodeCommand 0x0001#16 = .error .immediateBits := by decide

/-- Of ReservedAndIllegalWordsAreRefused: each item at its boundary, and words no item takes. -/
theorem witness_ReservedAndIllegalWordsAreRefused :
    let refusedBy (w : Word) : Bool :=
      match step { State.reset with script := [{ Ports.zero with cmd := w }] } with | .refused _ => true | _ => false
    ([0xC000#16, 0xE000#16, 0x0100#16, 0x1000#16, 0x3000#16, 0x0001#16, 0xA001#16].map refusedBy =
      [true, true, true, true, true, true, true]) ∧
    ([0x0000#16, 0x20FF#16, 0x4000#16, 0x6000#16, 0x8000#16, 0xB000#16].map refusedBy =
      [false, false, false, false, false, false]) := by decide

/-- Of CommandWordsDecodeToTheRowTheyMatch. -/
theorem witness_CommandWordsDecodeToTheRowTheyMatch :
    (Instr.rxByte 0x00#8).format = .cmd16 ∧ 0x20FF#16 &&& (Instr.rxByte 0x00#8).rowMask = (Instr.rxByte 0x00#8).rowMatch := by
  decide

/-- Of DecodeOfEncodeIsTheInstruction. -/
theorem witness_DecodeOfEncodeIsTheInstruction : (Instr.frameUnknown 0x00#8 0x03#8).wellFormed = true := by decide

/-- Of EncodeOfDecodeIsTheWord, in both formats. -/
theorem witness_EncodeOfDecodeIsTheWord :
    decodeAs .cmd16 0xB000#16 = .ok (.telemDecode .three) ∧ decodeAs .frameCf 0x0182#16 = .ok (.frameUnknown 0x01#8 0x82#8) := by
  decide

/-- Of TimeCheckTestsTheWindow: a gap of 501 and of 500 (vectors Y8, Y9). -/
theorem witness_TimeCheckTestsTheWindow : (headerState 4#9 103 604).TimedOut ∧ ¬(headerState 4#9 103 603).TimedOut := by decide

/-- Of RxByteHuntsForTheMarker: the marker with the smallest capacity, and any other byte. -/
theorem witness_RxByteHuntsForTheMarker :
    let s : State := { huntState 0xAA#8 6 with params := { params with bufCap := 2 } }
    s.rx.phase = .awaitStart ∧ s.rx.prev = 0xAA#8 ∧ 2 ≤ s.params.bufCap ∧ ¬(s.rx.prev = 0xAA#8 ∧ 0x54#8 = 0x55#8) := by decide

/-- Of RxByteStoresAHeaderByte: the first and the last such cursor. -/
theorem witness_RxByteStoresAHeaderByte :
    ∀ cur ∈ [2#9, 5#9],
      let s := headerState cur 10 510
      ¬s.TimedOut ∧ s.rx.phase = .readHeader ∧ s.rx.cur.toNat < s.params.bufCap ∧ s.rx.cur ≠ 6#9 := by decide

/-- Of RxByteCompletesTheHeader: with `MAX_DATA_LEN` = 64, the lengths 65 and 64. -/
theorem witness_RxByteCompletesTheHeader :
    let s := withMaxDataLen 64 (headerState 6#9 10 510)
    ¬s.TimedOut ∧ s.rx.phase = .readHeader ∧ s.rx.cur = 6#9 ∧ 6 < s.params.bufCap ∧ s.rx.buf.wf s.params.bufCap = true ∧
      s.params.maxDataLen < (0x41#8).toNat ∧ (0x40#8).toNat ≤ s.params.maxDataLen := by decide

/-- Of RxByteStoresABodyByte: two bytes still expected. -/
theorem witness_RxByteStoresABodyByte :
    let s := stateAt .readBody confirmHead 7#9 2#9 0xAA#8 6 6
    ¬s.TimedOut ∧ s.rx.phase = .readBody ∧ s.rx.cur.toNat < s.params.bufCap ∧ s.rx.rem ≠ 1#9 := by decide

/-- Of RxByteCompletesTheFrame: the last byte that matches, and one that does not (vectors Y16, Y17). -/
theorem witness_RxByteCompletesTheFrame :
    lastByteState.Inv ∧ ¬lastByteState.TimedOut ∧ lastByteState.rx.phase = .readBody ∧ lastByteState.rx.rem = 1#9 ∧
      seen (exec (.rxByte 0x2D#8) lastByteState) = some ⟨.awaitStart, 0, 0, false, 0x00#8, 8, none, none⟩ := by decide

/-- Of LateByteAbandonsTheFrameFirst, at the first late millisecond. -/
theorem witness_LateByteAbandonsTheFrameFirst : (headerState 3#9 102 603).TimedOut := by decide

/-- Of TimeCheckBeforeAByteOnlyMovesTheReport: in time and late. -/
theorem witness_TimeCheckBeforeAByteOnlyMovesTheReport :
    (∃ u v, exec .timeCheck (headerState 3#9 102 602) = .next u ∧ exec (.rxByte 0xAA#8) (headerState 3#9 102 602) = .next v) ∧
    (∃ u v, exec .timeCheck (headerState 3#9 102 603) = .next u ∧ exec (.rxByte 0xAA#8) (headerState 3#9 102 603) = .next v) :=
  ⟨⟨_, _, rfl, rfl⟩, _, _, rfl, rfl⟩

/-- Of RxByteWritesOnlyItsByte: a state for each clause. -/
theorem witness_RxByteWritesOnlyItsByte :
    ((headerState 3#9 102 603).Inv ∧ (headerState 3#9 102 603).TimedOut) ∧
    ((huntState 0xAA#8 6).Inv ∧ (huntState 0xAA#8 6).rx.phase = .awaitStart ∧ (huntState 0xAA#8 6).rx.prev = 0xAA#8) ∧
    ((huntState 0x00#8 6).Inv ∧ (huntState 0x00#8 6).rx.prev ≠ 0xAA#8) ∧
    ((headerState 6#9 102 602).Inv ∧ (headerState 6#9 102 602).rx.phase ≠ .awaitStart ∧ ¬(headerState 6#9 102 602).TimedOut) :=
  ⟨⟨by decide, by decide⟩, ⟨by decide, rfl, rfl⟩, ⟨by decide, by decide⟩, by decide, by decide, by decide⟩

/-- Of RxByteStopsOnlyInTheseExcludedStates: each stop, and the last state before one. -/
theorem witness_RxByteStopsOnlyInTheseExcludedStates :
    exec (.rxByte 0x00#8) (stateAt .frameReady [] 9#9 0#9 0xAA#8 7 7) = .fault .frameReadyHeld ∧
    exec (.rxByte 0x00#8) (stateAt .readBody [] 264#9 2#9 0xAA#8 7 7) = .fault .bufferIndex ∧
    exec (.rxByte 0x55#8) { huntState 0xAA#8 6 with params := { params with bufCap := 1 } } = .fault .bufferIndex ∧
    ∃ t, exec (.rxByte 0x00#8) (stateAt .readBody [] 263#9 2#9 0xAA#8 7 7) = .next t := ⟨rfl, rfl, rfl, _, rfl⟩

/-- Of AtMostOneEventPerStep: a step with each event. -/
theorem witness_AtMostOneEventPerStep :
    seen (step (scripted lastByteState [.rx 8 0x2C#8])) =
      some ⟨.awaitStart, 0, 0, false, 0x00#8, 8, some (confirmRecord 0x022C#16), none⟩ ∧
    seen (step (scripted (headerState 3#9 2 0) [.rx 600 0x55#8])) =
      some ⟨.awaitStart, 0, 0, false, 0x55#8, 600, none, some .rxTimeout⟩ ∧
    seen (step (scripted (withMaxDataLen 64 (headerState 6#9 10 0)) [.rx 11 0x41#8])) =
      some ⟨.awaitStart, 0, 0, false, 0x00#8, 11, none, some .rxOversize⟩ := by decide

/-- Of CompletedFrameIsStructurallySound. -/
theorem witness_CompletedFrameIsStructurallySound :
    let s := lastByteState
    let u := validateState (confirmHead ++ [0x2D#8])
    s.Inv ∧ s.rx.phase = .readBody ∧ s.rx.rem = 1#9 ∧
      u.ports.valFrame = (List.range (s.rx.cur.toNat + 1)).map (s.rx.buf.write s.rx.cur.toNat 0x2D#8).read ∧
      u.ports.valLen = s.rx.cur + 1#9 := by decide

/-- Of FrameEndIsNoMarkerStart: frame E11, whose last byte is 0xAA, and a frame dropped for its checksum (vector Y17). -/
theorem witness_FrameEndIsNoMarkerStart :
    (∃ t, exec (.rxByte 0xAA#8)
        (stateAt .readBody [0xAA#8, 0x55#8, 0x7F#8, 0xAB#8, 0x00#8, 0x81#8, 0x00#8, 0x02#8] 8#9 1#9 0xAA#8 7 8) = .next t ∧
      t.out.frame ≠ none) ∧
    ∃ t, exec (.rxByte 0x2D#8) lastByteState = .next t ∧ t.out.frame = none ∧ ¬lastByteState.TimedOut ∧
      lastByteState.rx.phase = .readBody ∧ lastByteState.rx.rem = 1#9 :=
  ⟨⟨_, rfl, by decide⟩, _, rfl, by decide, by decide, by decide, by decide⟩

/-- Of BodyTakesEveryByteUnseen: the marker as two of three expected bytes, the window used up before each. -/
theorem witness_BodyTakesEveryByteUnseen :
    let s : State := { stateAt .readBody [0xAA#8, 0x55#8, 0x01#8, 0xAB#8, 0x00#8, 0x81#8, 0x01#8] 7#9 3#9 0xAA#8 7 8 with
      script := rxScript ([507, 1007].zip [0xAA#8, 0x55#8]) ++ [] }
    s.Inv ∧ s.rx.phase = .readBody ∧ [0xAA#8, 0x55#8].length < s.rx.rem.toNat ∧ [507, 1007].length = [0xAA#8, 0x55#8].length ∧
      withinWindow s.params (s.rx.tLast :: [507, 1007]) = true ∧
      s.script = rxScript ([507, 1007].zip [0xAA#8, 0x55#8]) ++ [] := by decide

/-- The times of a ten-byte frame, each gap the whole window. -/
def times : List Nat := (List.range 10).map fun i => 500 * i

/-- The state that is given frame E9 byte by byte, with `MAX_DATA_LEN` = 1 and `prev` = 0xAA. -/
def deliveryState : State :=
  { withMaxDataLen 1 (huntState 0xAA#8 0) with
    script := rxScript (times.zip (serialize 0xAB#8 0x02#8 0x01#8 0x01#8 0x01#8 [0x01#8])) ++ [] }

/-- Of DeliveredFrameIsEmittedOnceAtItsLastByte, and of BufferHoldsTheFrameInWireOrder with the ends of its range for `k`. -/
theorem witness_DeliveredFrameIsEmittedOnceAtItsLastByte :
    deliveryState.Inv ∧ deliveryState.rx.phase = .awaitStart ∧ [0x01#8].length ≤ deliveryState.params.maxDataLen ∧
      times.length = [0x01#8].length + 9 ∧ withinWindow deliveryState.params times = true ∧
      deliveryState.script =
        rxScript (times.zip (serialize 0xAB#8 0x02#8 0x01#8 0x01#8 (BitVec.ofNat 8 [0x01#8].length) [0x01#8])) ++ [] ∧
      ∀ k ∈ [2, 6, 7, 9], 2 ≤ k ∧ k ≤ [0x01#8].length + 8 := by decide

/-- Of EncodedFrameIsNineBytesLongerThanItsData, and the inner hypotheses of ValidateOfEncodeRecoversTheFrame. -/
theorem witness_EncodedFrameIsNineBytesLongerThanItsData :
    ∃ t e, exec .encode State.reset = .next t ∧ t.out.enc = some e ∧
      ∃ u : State, u.ports.valFrame = e.out ∧ u.ports.valLen = e.outLen :=
  ⟨_, _, rfl, rfl, { State.reset with ports := { Ports.zero with valFrame := _, valLen := _ } }, rfl, rfl⟩

/-- Of SingleBitFlipIsAlwaysDetected: the marker, the length byte, a header byte and the last trailer byte, at both ends of `k`. -/
theorem witness_SingleBitFlipIsAlwaysDetected :
    ∀ i ∈ [0, 1, 2, 6, 8], ∀ k ∈ [0, 7],
      let fr := serialize 0x01#8 0xAB#8 0x00#8 0x81#8 0x00#8 []
      let u := validateState (fr.set i (byteAt fr i ^^^ (1#8 <<< k)))
      i < 9 ∧ u.ports.valFrame = fr.set i (byteAt fr i ^^^ (1#8 <<< k)) ∧ u.ports.valLen.toNat = 9 := by decide

/-- Of TelemDecodeExtractsTheLayout: 43 bytes and 44. -/
theorem witness_TelemDecodeExtractsTheLayout :
    (telemState 43).ports.telLen.toNat < (telemState 43).params.minTelemLen ∧
    (telemState 44).params.minTelemLen ≤ (telemState 44).ports.telLen.toNat := by decide

/-- Of ReservedRegionIsCopiedVerbatim and FieldPresenceByLengthAndVariant: the longest rejected payload, and the lengths at which
a field appears in either variant. -/
theorem witness_FieldPresenceByLengthAndVariant :
    (∀ n, (defaultTelemState n).params = Config.defaults) ∧ (defaultTelemState 43).ports.telLen.toNat < 44 ∧
      ∀ n ∈ [44, 45, 46, 48, 63, 64, 66, 68], 44 ≤ (defaultTelemState n).ports.telLen.toNat :=
  ⟨fun _ => rfl, by decide, by decide⟩

/-- Of ReservedRegionFollowsTheParameters: a payload that ends inside the region, and one that ends before it, with skips and a
minimum that are not the defaults. -/
theorem witness_ReservedRegionFollowsTheParameters :
    ∀ n ∈ [10, 20, 48],
      let s : State := { telemState n with params := { params with skipS := 5, skipT := 200, minTelemLen := 10 } }
      s.params.minTelemLen ≤ s.ports.telLen.toNat := by decide

/-- Of BytesPastTheLayoutAreIgnored: 48 bytes and 60 with the same first 48; for three phases 68 and 70. -/
theorem witness_BytesPastTheLayoutAreIgnored :
    let s (n : Nat) (lines : List Byte) : State :=
      { State.reset with ports := { Ports.zero with telLen := BitVec.ofNat 8 n, telPayload := lines } }
    (s 48 t1).params = Config.defaults ∧ (s 60 t1).params = Config.defaults ∧
      48 ≤ (s 48 t1).ports.telLen.toNat ∧ 48 ≤ (s 60 (t1 ++ [0x77#8])).ports.telLen.toNat ∧
      (∀ i, i < 48 → byteAt (s 48 t1).ports.telPayload i = byteAt (s 60 (t1 ++ [0x77#8])).ports.telPayload i) ∧
      68 ≤ (s 68 t1).ports.telLen.toNat ∧ 68 ≤ (s 70 t1).ports.telLen.toNat ∧
      (∀ i, i < 68 → byteAt (s 68 t1).ports.telPayload i = byteAt (s 70 t1).ports.telPayload i) :=
  ⟨rfl, rfl, by decide, by decide, by decide, by decide, by decide, fun _ _ => rfl⟩

/-- Of FieldValueIsTheExactQuotient. -/
theorem witness_FieldValueIsTheExactQuotient :
    params.Valid ∧ (telemState 44).params.Valid ∧ (telemState 44).params.minTelemLen ≤ (telemState 44).ports.telLen.toNat ∧
      (extractField params .single t1 .fac1) = some { raw := 0x1388#16, scale := 100 } := by decide

/-- Of FrameRowsAnswerTheirKind. -/
theorem witness_FrameRowsAnswerTheirKind : (Instr.frameUnknown 0xFF#8 0xFF#8).wellFormed = true := by decide

/-- Of ReplyKindSetsBit7OfTheFunction: the three replies. -/
theorem witness_ReplyKindSetsBit7OfTheFunction :
    kindReply (classify 0x00#8 0x00#8) = some .regRequest ∧ kindReply (classify 0x00#8 0x01#8) = some .addrConfirm ∧
    kindReply (classify 0x01#8 0x01#8) = some .infoResponse := by decide

/-- Of EveryStepKeepsTheInvariant and SyncFlagTellsTheFrameInProgress: a state of each phase that steps. -/
theorem witness_EveryStepKeepsTheInvariant :
    let hunt := scripted (huntState 0xAA#8 0) [.rx 6 0x55#8]
    let header := scripted (headerState 6#9 10 0) [.rx 11 0xFF#8]
    let body := scripted lastByteState [.rx 8 0x2C#8]
    (hunt.Inv ∧ header.Inv ∧ body.Inv) ∧
      [seen (step hunt), seen (step header), seen (step body)].all Option.isSome = true :=
  ⟨⟨by decide, by decide, by decide⟩, by decide⟩

/-- Of EveryOperationCompletes and NoFaultInsideTheInvariant: the fullest buffer the invariant allows. -/
theorem witness_EveryOperationCompletes :
    let s := scripted (stateAt .readBody [0xAA#8, 0x55#8, 0x00#8, 0x00#8, 0x00#8, 0x00#8, 0xFF#8] 263#9 1#9 0xAA#8 7 0)
      [.rx 8 0x00#8]
    s.Inv ∧ s.script = (AsmLine.rx 8 0x00#8).ports :: [] ∧
      decodeCommand (AsmLine.rx 8 0x00#8).ports.cmd = .ok (.rxByte 0x00#8) := by decide

/-- Of PureOperationsAreIdempotentAndBlindToTheRecord. -/
theorem witness_PureOperationsAreIdempotentAndBlindToTheRecord :
    Instr.telemDecode .three = .encode ∨ Instr.telemDecode .three = .validate ∨
      (∃ v, Instr.telemDecode .three = .telemDecode v) := Or.inr (Or.inr ⟨_, rfl⟩)

/-- Of StaleBytesAndIdleTimeAreUnobservable: the same hunt after different pasts. -/
theorem witness_StaleBytesAndIdleTimeAreUnobservable :
    let s₁ := scripted (stateAt .awaitStart [] 0#9 0#9 0xAA#8 0 0) [.rx 6 0x55#8]
    let s₂ := scripted (stateAt .awaitStart confirmHead 0#9 0#9 0xAA#8 12345 0) [.rx 6 0x55#8]
    s₁.Inv ∧ s₂.Inv ∧ s₁.params = s₂.params ∧ s₁.script = s₂.script ∧ s₁.rx.Agrees s₂.rx ∧ s₁.rx ≠ s₂.rx :=
  ⟨by decide, by decide, rfl, rfl,
    ⟨rfl, rfl, rfl, rfl, rfl, fun h => absurd rfl h, fun _ h => absurd h (Nat.not_lt_zero _)⟩, by decide⟩

/-- Of OperandVectorIsThePortsLines: a list shorter than the vector, and one of its length. -/
theorem witness_OperandVectorIsThePortsLines :
    portBytes 3 [0x01#8] = [0x01#8, 0x00#8, 0x00#8] ∧ 2 < 3 ∧ [0x01#8, 0x02#8].length = 2 := by decide

end Sys2Proof.Tests
end

namespace Sys2Proof.Machine

/-! ## The step and the stops of RX_BYTE (00_scope.md R7, 10_state.md R28)

What `step` does in each shape of the script; what no operation that answers can change; and the exact stops of `RX_BYTE`,
procedure by procedure. -/

/-! ### The equations of `step` -/

/-- An empty script has no step (log 1). -/
theorem step_of_script_nil {s : State} (hs : s.script = []) : step s = .refused .noOperation := by
  simp only [step, hs]

/-- A presented word that decodes is run on the sampled ports (R7). -/
theorem step_of_decode {s : State} {p : Ports} {rest : List Ports} {i : Instr}
    (hs : s.script = p :: rest) (hi : decodeCommand p.cmd = .ok i) : step s = exec i (s.sample p rest) := by
  simp only [step, hs, fetchCommand, hi]

/-- Settles O3: the model's `sample` is the statement's record update. -/
theorem stepRunsTheDecodedOperation : Obligations.StepRunsTheDecodedOperation :=
  fun _ _ _ _ hs hi => step_of_decode hs hi

/-- Settles O4. -/
theorem noStepWithoutAnOperation : Obligations.NoStepWithoutAnOperation :=
  fun _ hs => step_of_script_nil hs

/-! ### The frame of every operation -/

/-- `RX_BYTE` that answers writes only the synchronizer record and the outputs. -/
theorem execRxByte_next {b : Byte} {s t : State} (h : execRxByte b s = .next t) : ∃ r e, t = s.finishRx r e := by
  cases hexp : s.rx.expired s.params s.now with
  | true => exact ⟨_, _, Host.Outcome.next.inj (h.symm.trans (execRxByte_expired hexp))⟩
  | false =>
    rw [execRxByte_live hexp] at h
    split at h
    case h_1 => cases h
    case h_2 => exact ⟨_, _, (Host.Outcome.next.inj h).symm⟩

/-- The codec, the telemetry decoder and the FRAME rows write only the outputs. -/
theorem exec_next_pure {i : Instr} {s t : State} (h : exec i s = .next t)
    (hi : i = .encode ∨ i = .validate ∨ (∃ v, i = .telemDecode v) ∨ i.format = .frameCf) : ∃ o, t = s.withOut o := by
  obtain ⟨o, -, -, ho⟩ := exec_pure_cases s hi
  exact ⟨o, Host.Outcome.next.inj (h.symm.trans ho)⟩

/-- An operation that answers writes only the synchronizer record and the outputs: parameters, ports and script stay (R30). -/
theorem exec_next {i : Instr} {s t : State} (h : exec i s = .next t) : ∃ r o, t = (s.withRx r).withOut o := by
  cases i with
  | timeCheck => exact ⟨_, _, (Host.Outcome.next.inj h).symm⟩
  | reset => exact ⟨_, _, (Host.Outcome.next.inj h).symm⟩
  | rxByte b =>
    obtain ⟨r, e, ht⟩ := execRxByte_next h
    exact ⟨r, e.outputs, ht⟩
  | encode | validate | telemDecode | frameDiscovery | frameRegRequest | frameAddrAssign | frameAddrConfirm | frameRemove
  | frameInfoRequest | frameInfoResponse | frameUnknown =>
    obtain ⟨o, ht⟩ := exec_next_pure h (by simp [Instr.format])
    exact ⟨s.rx, o, ht⟩
  | reservedOp110 | reservedOp111 => cases h

/-- Settles O5: the step samples one entry of the script, and the operation it runs then leaves parameters, ports and script
alone. -/
theorem stepKeepsParametersAndTakesOneInput : Obligations.StepKeepsParametersAndTakesOneInput := by
  intro s t h
  obtain ⟨p, rest, i, hs, -, hexec⟩ := step_cases h
  obtain ⟨r, o, rfl⟩ := exec_next hexec
  exact ⟨rfl, hs⟩

/-! ### The stops of `RX_BYTE` -/

/-- `onByte p b r` stops with the fault `f`: `FRAME_READY` is held, a header or body byte is due at an index past the capacity,
or the marker is found and the buffer cannot hold it. `onByte_error_iff` ties it to the model. -/
def Receive.StopsOn (p : Params) (b : Byte) (r : Receive) (f : Fault) : Prop :=
  (r.phase = .frameReady ∧ f = .frameReadyHeld) ∨
  ((r.phase = .readHeader ∨ r.phase = .readBody) ∧ p.bufCap ≤ r.cur.toNat ∧ f = .bufferIndex) ∨
  (r.phase = .awaitStart ∧ r.prev = 0xAA#8 ∧ b = 0x55#8 ∧ p.bufCap < 2 ∧ f = .bufferIndex)

/-- Hunting stops only where the marker is found and has no room. -/
theorem onAwait_error_iff {p : Params} {b : Byte} {r : Receive} {f : Fault} :
    onAwait p b r = .error f ↔ r.prev = 0xAA#8 ∧ b = 0x55#8 ∧ p.bufCap < 2 ∧ f = .bufferIndex := by
  rcases onAwait_cases p b r with ⟨-, -, hcap, h⟩ | ⟨hprev, rfl, hcap, h⟩ | ⟨hno, h⟩
  · simp [h, Nat.not_lt.mpr hcap]
  · simp [h, hprev, hcap, @eq_comm Fault]
  · simpa [h] using fun hprev hb => absurd ⟨hprev, hb⟩ hno

/-- A header byte stops only past the capacity. -/
theorem onHeader_error_iff {p : Params} {b : Byte} {r : Receive} {f : Fault} :
    onHeader p b r = .error f ↔ p.bufCap ≤ r.cur.toNat ∧ f = .bufferIndex := by
  rcases onHeader_cases p b r with ⟨hcap, h⟩ | ⟨hcap, -, h⟩ | ⟨hcap, hcur, h⟩
  · simp [h, hcap, @eq_comm Fault]
  · simp [h, Nat.not_le.mpr hcap]
  · simp [h, hcur, Nat.not_le.mpr hcap]

/-- A body byte stops only past the capacity. -/
theorem onBody_error_iff {p : Params} {b : Byte} {r : Receive} {f : Fault} :
    onBody p b r = .error f ↔ p.bufCap ≤ r.cur.toNat ∧ f = .bufferIndex := by
  rcases onBody_cases p b r with ⟨hcap, h⟩ | ⟨hcap, -, h⟩ | ⟨hcap, -, h⟩
  · simp [h, hcap, @eq_comm Fault]
  · simp [h, Nat.not_le.mpr hcap]
  · simp [h, Nat.not_le.mpr hcap]

/-- The byte goes to its phase's procedure, so it stops where that procedure does. -/
theorem onByte_error_iff {p : Params} {b : Byte} {r : Receive} {f : Fault} :
    onByte p b r = .error f ↔ r.StopsOn p b f := by
  cases hphase : r.phase with
  | awaitStart => simp [onByte, Receive.StopsOn, hphase, onAwait_error_iff]
  | readHeader => simp [onByte, Receive.StopsOn, hphase, onHeader_error_iff]
  | readBody => simp [onByte, Receive.StopsOn, hphase, onBody_error_iff]
  | frameReady => simp [onByte, Receive.StopsOn, hphase, @eq_comm Fault]

/-- A late byte never stops (the frame is abandoned first); any other stops where its phase's procedure does. -/
theorem execRxByte_fault_iff {b : Byte} {s : State} {f : Fault} :
    execRxByte b s = .fault f ↔ ¬s.TimedOut ∧ s.rx.StopsOn s.params b f := by
  rw [← expired_iff]
  cases hexp : s.rx.expired s.params s.now with
  | true => simp [execRxByte_expired hexp]
  | false =>
    have hiff : onByte s.params b { s.rx with tLast := s.now } = .error f ↔ s.rx.StopsOn s.params b f := onByte_error_iff
    rw [execRxByte_live hexp, ← hiff]
    cases onByte s.params b { s.rx with tLast := s.now } <;> simp

/-- Inside a frame the cursor of R28 is below `MAX_DATA_LEN + 9`, the capacity R6 demands (R135). -/
theorem State.Inv.cur_lt_bufCap {s : State} (h : s.Inv) (hphase : s.rx.phase = .readHeader ∨ s.rx.phase = .readBody) :
    s.rx.cur.toNat < s.params.bufCap := by
  obtain ⟨⟨-, hcap, -⟩, ⟨-, hheader, hbody, -⟩, -, -⟩ := h
  rcases hphase with hp | hp
  · obtain ⟨-, hcur, -⟩ := hheader hp
    omega
  · obtain ⟨-, -, hrem, -, -, -, -, hlen, hsum⟩ := hbody hp
    omega

/-- No state of the invariant is one `RX_BYTE` stops in. -/
theorem State.Inv.not_stopsOn {s : State} (h : s.Inv) (b : Byte) (f : Fault) : ¬s.rx.StopsOn s.params b f := by
  rintro (⟨hready, -⟩ | ⟨hphase, hcap, -⟩ | ⟨-, -, -, hcap, -⟩)
  · obtain ⟨-, ⟨-, -, -, hnot⟩, -, -⟩ := h
    exact hnot hready
  · exact absurd (h.cur_lt_bufCap hphase) (Nat.not_lt.mpr hcap)
  · obtain ⟨⟨-, hvalid, -⟩, -⟩ := h
    omega

/-- Settles O22: the stops are exactly `StopsOn` within the window, and each of them fails the invariant. -/
theorem rxByteStopsOnlyInTheseExcludedStates : Obligations.RxByteStopsOnlyInTheseExcludedStates := by
  intro s b f
  calc exec (.rxByte b) s = .fault f
    _ ↔ ¬s.TimedOut ∧ s.rx.StopsOn s.params b f := execRxByte_fault_iff
    _ ↔ ¬s.Inv ∧ ¬s.TimedOut ∧ s.rx.StopsOn s.params b f :=
      (and_iff_right_of_imp fun hstop hinv => hinv.not_stopsOn b f hstop.2).symm

end Sys2Proof.Machine

namespace Sys2Proof.Machine

/-! ## The synchronizer inside its invariant (10_state.md R20 to R28, R36, R37)

Inside the invariant RX_BYTE never stops, so its answer is a total function of the record, `Receive.accept`. The invariant, the
bytes a step writes, and what a record's stale parts cannot reach are each read off that one function. -/

/-! ### The answer of a byte inside the invariant -/

/-- The record after the marker is found (41_synchronizer.md R133). -/
def Receive.marked (r : Receive) : Receive :=
  { r with buf := (r.buf.write 0 0xAA#8).write 1 0x55#8, cur := 2#9, rem := 0#9, sync := true, phase := .readHeader }

/-- The record with a byte stored at its cursor (41_synchronizer.md R134, R135). -/
def Receive.stored (b : Byte) (r : Receive) : Receive :=
  { r with buf := r.buf.write r.cur.toNat b, cur := r.cur + 1#9 }

/-- What `onByte` answers where no store fails; `onByte_eq_accept` ties it to the model. -/
def Receive.accept (p : Params) (b : Byte) (r : Receive) : Receive × Events :=
  match r.phase with
  | .awaitStart => if r.prev = 0xAA#8 ∧ b = 0x55#8 then (r.marked, Events.none) else ({ r with prev := b }, Events.none)
  | .readHeader => if r.cur = 6#9 then headerComplete p (r.stored b) else (r.stored b, Events.none)
  | .readBody =>
    if r.rem = 1#9 then complete { r.stored b with rem := 0#9, phase := .frameReady }
    else ({ r.stored b with rem := r.rem - 1#9 }, Events.none)
  | .frameReady => (r, Events.none)

theorem Receive.accept_marker {p : Params} {r : Receive} (hphase : r.phase = .awaitStart) (hprev : r.prev = 0xAA#8) :
    r.accept p 0x55#8 = (r.marked, Events.none) := by
  simp [Receive.accept, hphase, hprev]

theorem Receive.accept_hunt {p : Params} {b : Byte} {r : Receive} (hphase : r.phase = .awaitStart)
    (hno : ¬(r.prev = 0xAA#8 ∧ b = 0x55#8)) : r.accept p b = ({ r with prev := b }, Events.none) := by
  simp only [Receive.accept, hphase, if_neg hno]

theorem Receive.accept_header {p : Params} {b : Byte} {r : Receive} (hphase : r.phase = .readHeader) :
    r.accept p b = if r.cur = 6#9 then headerComplete p (r.stored b) else (r.stored b, Events.none) := by
  simp only [Receive.accept, hphase]

theorem Receive.accept_body {p : Params} {b : Byte} {r : Receive} (hphase : r.phase = .readBody) :
    r.accept p b =
      if r.rem = 1#9 then complete { r.stored b with rem := 0#9, phase := .frameReady }
      else ({ r.stored b with rem := r.rem - 1#9 }, Events.none) := by
  simp only [Receive.accept, hphase]

/-- Where the byte procedures do not stop, they answer `accept`. -/
theorem onByte_eq_accept {p : Params} {b : Byte} {r : Receive} (hno : ∀ f, ¬r.StopsOn p b f) :
    onByte p b r = .ok (r.accept p b) := by
  have hok : ∀ f, onByte p b r ≠ .error f := fun f hf => hno f (onByte_error_iff.mp hf)
  cases hphase : r.phase with
  | awaitStart =>
    simp only [onByte, hphase] at hok ⊢
    rcases onAwait_cases p b r with ⟨hprev, rfl, -, heq⟩ | ⟨-, -, -, heq⟩ | ⟨hhunt, heq⟩
    · rw [heq, Receive.accept_marker hphase hprev]; rfl
    · exact absurd heq (hok _)
    · rw [heq, Receive.accept_hunt hphase hhunt]
  | readHeader =>
    simp only [onByte, hphase] at hok ⊢
    rw [Receive.accept_header hphase]
    rcases onHeader_cases p b r with ⟨-, heq⟩ | ⟨-, hcur, heq⟩ | ⟨-, hcur, heq⟩
    · exact absurd heq (hok _)
    · rw [heq, if_neg hcur]; rfl
    · simp [heq, hcur, Receive.stored]
  | readBody =>
    simp only [onByte, hphase] at hok ⊢
    rw [Receive.accept_body hphase]
    rcases onBody_cases p b r with ⟨-, heq⟩ | ⟨-, hrem, heq⟩ | ⟨-, hrem, heq⟩
    · exact absurd heq (hok _)
    · rw [heq, if_neg hrem]; rfl
    · rw [heq, if_pos hrem]; rfl
  | frameReady => exact absurd (by simp only [onByte, hphase]) (hok .frameReadyHeld)

/-- The record with the time of the step in `tLast` (R27). -/
def Receive.stamp (now : Nat) (r : Receive) : Receive := { r with tLast := now }

/-- The record and the events that `RX_BYTE` answers inside the invariant; `State.Inv.execRxByte_eq` ties it to the model. -/
def State.received (b : Byte) (s : State) : Receive × Events :=
  if s.rx.expired s.params s.now then
    ({ s.rx.frameReset with prev := b, tLast := s.now }, { frame := none, diag := some .rxTimeout })
  else (s.rx.stamp s.now).accept s.params b

/-- Inside the invariant RX_BYTE completes (60_exceptions.md R207). -/
theorem State.Inv.execRxByte_eq {s : State} (h : s.Inv) (b : Byte) :
    execRxByte b s = .next (s.finishRx (s.received b).1 (s.received b).2) := by
  cases hexp : s.rx.expired s.params s.now with
  | true => rw [execRxByte_expired hexp]; simp [State.received, hexp]
  | false =>
    have heq : onByte s.params b { s.rx with tLast := s.now } = .ok ((s.rx.stamp s.now).accept s.params b) :=
      onByte_eq_accept (h.not_stopsOn b)
    rw [execRxByte_live hexp, heq]
    simp [State.received, hexp]

/-! ### The rules of the record's operations -/

@[simp] theorem headerComplete_buf (p : Params) (r : Receive) : (headerComplete p r).1.buf = r.buf := by
  rcases headerComplete_cases p r with ⟨-, h⟩ | ⟨-, h⟩ <;> simp [h]

@[simp] theorem headerComplete_tLast (p : Params) (r : Receive) : (headerComplete p r).1.tLast = r.tLast := by
  rcases headerComplete_cases p r with ⟨-, h⟩ | ⟨-, h⟩ <;> simp [h]

@[simp] theorem complete_record (r : Receive) : (complete r).1 = r.frameReset := rfl

/-- A byte of a frame in progress is stored at the cursor and nowhere else, whether or not it ends its part of the frame. -/
theorem Receive.accept_buf_of_inFrame {p : Params} {b : Byte} {r : Receive} (hphase : r.phase = .readHeader ∨ r.phase = .readBody) :
    (r.accept p b).1.buf = r.buf.write r.cur.toNat b := by
  rcases hphase with hphase | hphase
  · rw [Receive.accept_header hphase]
    split <;> simp [Receive.stored]
  · rw [Receive.accept_body hphase]
    split <;> simp [Receive.stored]

/-- The byte procedures leave `tLast` alone (R27). -/
@[simp] theorem Receive.accept_tLast (p : Params) (b : Byte) (r : Receive) : (r.accept p b).1.tLast = r.tLast := by
  unfold Receive.accept
  split
  case h_1 => split <;> rfl
  case h_2 => split <;> simp [Receive.stored]
  case h_3 => split <;> simp [Receive.stored]
  case h_4 => rfl

/-- RX_BYTE sets `tLast` to the time of the step, late or not (R27). -/
@[simp] theorem State.received_tLast (b : Byte) (s : State) : (s.received b).1.tLast = s.now := by
  unfold State.received
  split <;> simp [Receive.stamp]

theorem Receive.read_marked {cap : Nat} {r : Receive} (hwf : r.buf.wf cap = true) (hcap : 2 ≤ cap) (a : Nat) :
    r.marked.buf.read a = if a = 1 then 0x55#8 else if a = 0 then 0xAA#8 else r.buf.read a := by
  have hwf0 : (r.buf.write 0 0xAA#8).wf cap = true := Memory.wf_write _ hwf (by omega)
  simp only [Receive.marked, Memory.read_write _ _ _ hwf0, Memory.read_write _ _ _ hwf]

/-- A read after a byte is stored: that byte at the cursor, what was there elsewhere. -/
theorem Receive.read_stored {cap : Nat} {b : Byte} {r : Receive} (hwf : r.buf.wf cap = true) (a : Nat) :
    (r.stored b).buf.read a = if a = r.cur.toNat then b else r.buf.read a :=
  Memory.read_write _ _ _ hwf

/-- The cursor does not wrap while it is below its last value. -/
theorem Receive.stored_cur_toNat {b : Byte} {r : Receive} (h : r.cur.toNat < 511) : (r.stored b).cur.toNat = r.cur.toNat + 1 := by
  have hcur : (r.stored b).cur = r.cur + 1#9 := rfl
  bv_omega

/-! ### The invariant is kept -/

/-- The part of `State.Inv` that is about the record; `State.inv_iff` ties it to the model. -/
structure Receive.Sound (p : Params) (r : Receive) : Prop where
  inv : r.Inv p
  wf : r.buf.wf p.bufCap = true
  tLast_lt : r.tLast < 2 ^ p.timeBits

theorem State.inv_iff {s : State} : s.Inv ↔ s.params.Valid ∧ s.rx.Sound s.params :=
  ⟨fun ⟨hvalid, hinv, hwf, htime⟩ => ⟨hvalid, hinv, hwf, htime⟩, fun ⟨hvalid, hinv, hwf, htime⟩ => ⟨hvalid, hinv, hwf, htime⟩⟩

/-- R28 asks nothing else of a record in AWAIT_START. -/
theorem Receive.inv_of_awaitStart {p : Params} {r : Receive} (hphase : r.phase = .awaitStart)
    (h : r.cur = 0#9 ∧ r.rem = 0#9 ∧ r.sync = false) : r.Inv p := by
  simpa [Receive.Inv, hphase] using h

/-- R28 asks nothing else of a record in READ_HEADER. -/
theorem Receive.inv_of_readHeader {p : Params} {r : Receive} (hphase : r.phase = .readHeader)
    (h : 2 ≤ r.cur.toNat ∧ r.cur.toNat ≤ 6 ∧ r.rem = 0#9 ∧ r.sync = true ∧ r.buf.read 0 = 0xAA#8 ∧ r.buf.read 1 = 0x55#8) :
    r.Inv p := by
  simpa [Receive.Inv, hphase] using h

/-- In READ_BODY the bounds R28 puts on `cur` and `rem` from above follow from their sum. -/
theorem Receive.inv_of_readBody {p : Params} {r : Receive} (hphase : r.phase = .readBody) (hcur : 7 ≤ r.cur.toNat)
    (hrem : 1 ≤ r.rem.toNat) (hsync : r.sync = true) (h0 : r.buf.read 0 = 0xAA#8) (h1 : r.buf.read 1 = 0x55#8)
    (hlen : (r.buf.read 6).toNat ≤ p.maxDataLen) (hsum : r.cur.toNat + r.rem.toNat = (r.buf.read 6).toNat + 9) : r.Inv p := by
  have hbyte := (r.buf.read 6).isLt
  refine ⟨?_, ?_, fun _ => ⟨hcur, by omega, hrem, by omega, hsync, h0, h1, hlen, hsum⟩, ?_⟩ <;> simp [hphase]

theorem Receive.frameReset_inv (p : Params) (r : Receive) : r.frameReset.Inv p :=
  Receive.inv_of_awaitStart rfl ⟨rfl, rfl, rfl⟩

/-- The end of a header starts a body of the length just read, or drops the frame. -/
theorem headerComplete_inv {p : Params} {r : Receive} (hcur : r.cur.toNat = 7) (hsync : r.sync = true)
    (h0 : r.buf.read 0 = 0xAA#8) (h1 : r.buf.read 1 = 0x55#8) : (headerComplete p r).1.Inv p := by
  rcases headerComplete_cases p r with ⟨-, heq⟩ | ⟨hlen, heq⟩
  · rw [heq]
    exact r.frameReset_inv p
  · have hrem := bytesRemaining_toNat (r.buf.read 6)
    rw [heq]
    exact Receive.inv_of_readBody rfl (by simp [hcur]) (by simp [hrem]) hsync h0 h1 hlen (by simp [hcur, hrem]; omega)

/-- A byte keeps R28, phase by phase. Inside a frame the cursor is past the marker, so the marker stays; inside a body it is past
the length byte as well, and `cur + rem` stays what it was. -/
theorem Receive.Inv.after_accept {p : Params} {r : Receive} (h : r.Inv p) (hwf : r.buf.wf p.bufCap = true) (hcap : 2 ≤ p.bufCap)
    (b : Byte) : (r.accept p b).1.Inv p := by
  obtain ⟨hawait, hheader, hbody, hready⟩ := h
  cases hphase : r.phase with
  | awaitStart =>
    by_cases hmark : r.prev = 0xAA#8 ∧ b = 0x55#8
    · obtain ⟨hprev, rfl⟩ := hmark
      rw [Receive.accept_marker hphase hprev]
      have hread := Receive.read_marked hwf hcap
      exact Receive.inv_of_readHeader rfl
        ⟨by simp [Receive.marked], by simp [Receive.marked], rfl, rfl, by simp [hread], by simp [hread]⟩
    · rw [Receive.accept_hunt hphase hmark]
      exact Receive.inv_of_awaitStart hphase (hawait hphase)
  | readHeader =>
    obtain ⟨hlow, hhigh, hrem, hsync, h0, h1⟩ := hheader hphase
    have hread := Receive.read_stored (b := b) hwf
    have hcur : (r.stored b).cur.toNat = r.cur.toNat + 1 := Receive.stored_cur_toNat (by omega)
    have h0' : (r.stored b).buf.read 0 = 0xAA#8 := by rw [hread, if_neg (by omega), h0]
    have h1' : (r.stored b).buf.read 1 = 0x55#8 := by rw [hread, if_neg (by omega), h1]
    rw [Receive.accept_header hphase]
    split
    case isTrue hlast => exact headerComplete_inv (by simp [hcur, hlast]) hsync h0' h1'
    case isFalse hmore =>
      have hne : r.cur.toNat ≠ 6 := fun h6 => hmore (BitVec.eq_of_toNat_eq h6)
      exact Receive.inv_of_readHeader hphase ⟨by simp only [hcur]; omega, by simp only [hcur]; omega, hrem, hsync, h0', h1'⟩
  | readBody =>
    obtain ⟨hlow, hhigh, hpos, -, hsync, h0, h1, hlen, hsum⟩ := hbody hphase
    rw [Receive.accept_body hphase]
    split
    case isTrue => exact Receive.frameReset_inv p _
    case isFalse hmore =>
      have hread := Receive.read_stored (b := b) hwf
      have hcur : (r.stored b).cur.toNat = r.cur.toNat + 1 := Receive.stored_cur_toNat (by omega)
      have hne : r.rem.toNat ≠ 1 := fun h1 => hmore (BitVec.eq_of_toNat_eq h1)
      have hrem : (r.rem - 1#9).toNat = r.rem.toNat - 1 := by bv_omega
      have h6 : (r.stored b).buf.read 6 = r.buf.read 6 := by rw [hread, if_neg (by omega)]
      have h0' : (r.stored b).buf.read 0 = 0xAA#8 := by rw [hread, if_neg (by omega), h0]
      have h1' : (r.stored b).buf.read 1 = 0x55#8 := by rw [hread, if_neg (by omega), h1]
      exact Receive.inv_of_readBody hphase (by simp only [hcur]; omega) (by simp only [hrem]; omega) hsync h0' h1'
        (by simpa only [h6] using hlen) (by simp only [hcur, hrem, h6]; omega)
  | frameReady => exact absurd hphase hready

/-- A byte keeps the buffer canonical: all it writes is inside the capacity. -/
theorem State.Inv.accept_wf {s : State} (h : s.Inv) (b : Byte) : (s.rx.accept s.params b).1.buf.wf s.params.bufCap = true := by
  have hcur := h.cur_lt_bufCap
  obtain ⟨⟨-, hcap, -⟩, ⟨-, -, -, hready⟩, hwf, -⟩ := h
  cases hphase : s.rx.phase with
  | awaitStart =>
    by_cases hmark : s.rx.prev = 0xAA#8 ∧ b = 0x55#8
    · obtain ⟨hprev, rfl⟩ := hmark
      rw [Receive.accept_marker hphase hprev]
      exact Memory.wf_write _ (Memory.wf_write _ hwf (by omega)) (by omega)
    · rwa [Receive.accept_hunt hphase hmark]
  | readHeader =>
    rw [Receive.accept_buf_of_inFrame (.inl hphase)]
    exact Memory.wf_write _ hwf (hcur (.inl hphase))
  | readBody =>
    rw [Receive.accept_buf_of_inFrame (.inr hphase)]
    exact Memory.wf_write _ hwf (hcur (.inr hphase))
  | frameReady => exact absurd hphase hready

theorem State.now_lt (s : State) : s.now < 2 ^ s.params.timeBits := Nat.mod_lt _ (Nat.two_pow_pos _)

/-- RX_BYTE leaves a sound record, late or in time. -/
theorem State.Inv.received_sound {s : State} (h : s.Inv) (b : Byte) : (s.received b).1.Sound s.params := by
  obtain ⟨hvalid, hinv, hwf, -⟩ := h
  have htime : (s.received b).1.tLast < 2 ^ s.params.timeBits := by
    rw [State.received_tLast]
    exact s.now_lt
  by_cases hexp : s.rx.expired s.params s.now = true
  · rw [State.received, if_pos hexp] at htime ⊢
    exact ⟨Receive.inv_of_awaitStart rfl ⟨rfl, rfl, rfl⟩, hwf, htime⟩
  · have hstamped : (s.withRx (s.rx.stamp s.now)).Inv := ⟨hvalid, hinv, hwf, s.now_lt⟩
    obtain ⟨-, hcap, -⟩ := hvalid
    rw [State.received, if_neg hexp] at htime ⊢
    exact ⟨Receive.Inv.after_accept (r := s.rx.stamp s.now) hinv hwf (by omega) b, hstamped.accept_wf b, htime⟩

theorem Receive.Sound.frameReset {p : Params} {r : Receive} (h : r.Sound p) : r.frameReset.Sound p :=
  ⟨r.frameReset_inv p, h.wf, h.tLast_lt⟩

/-- Every operation that answers from a state of the invariant leaves a sound record. -/
theorem State.Inv.exec_sound {s t : State} {i : Instr} (h : s.Inv) (hexec : exec i s = .next t) : t.rx.Sound s.params := by
  obtain ⟨-, hsound⟩ := State.inv_iff.mp h
  cases i with
  | timeCheck =>
    rcases execTimeCheck_cases s with ⟨-, heq⟩ | ⟨-, heq⟩ <;> cases heq.symm.trans hexec
    · exact hsound.frameReset
    · exact hsound
  | rxByte b =>
    cases (h.execRxByte_eq b).symm.trans hexec
    exact h.received_sound b
  | reset =>
    cases hexec
    exact hsound.frameReset
  | encode | validate | telemDecode | frameDiscovery | frameRegRequest | frameAddrAssign | frameAddrConfirm | frameRemove
  | frameInfoRequest | frameInfoResponse | frameUnknown =>
    obtain ⟨o, rfl⟩ := exec_next_pure hexec (by simp [Instr.format])
    exact hsound
  | reservedOp110 | reservedOp111 => cases hexec

/-- What the host presents is no part of the invariant. -/
theorem State.Inv.sample {s : State} (h : s.Inv) (p : Ports) (rest : List Ports) : (s.sample p rest).Inv := h

/-- Settles O48: the record stays sound by the operation, and no step changes a parameter. -/
theorem everyStepKeepsTheInvariant : Obligations.EveryStepKeepsTheInvariant := by
  intro s t h hstep
  obtain ⟨hparams, -⟩ := stepKeepsParametersAndTakesOneInput s t hstep
  obtain ⟨p, rest, i, -, -, hexec⟩ := step_cases hstep
  have hsound : t.rx.Sound s.params := (h.sample p rest).exec_sound hexec
  obtain ⟨hvalid, -⟩ := h
  rw [State.inv_iff, hparams]
  exact ⟨hvalid, hsound⟩

end Sys2Proof.Machine

namespace Sys2Proof.Machine

/-! ## What the invariant says at a step boundary (10_state.md R25, R28, R37) -/

/-- R28's clauses on `sync`, phase by phase. -/
theorem Receive.Inv.sync_iff {p : Params} {r : Receive} (h : r.Inv p) : r.sync = true ↔ r.phase ≠ .awaitStart := by
  obtain ⟨hawait, hheader, hbody, hready⟩ := h
  cases hphase : r.phase with
  | awaitStart =>
    obtain ⟨-, -, hsync⟩ := hawait hphase
    simp [hsync]
  | readHeader =>
    obtain ⟨-, -, -, hsync, -⟩ := hheader hphase
    simp [hsync]
  | readBody =>
    obtain ⟨-, -, -, -, hsync, -⟩ := hbody hphase
    simp [hsync]
  | frameReady => exact absurd hphase hready

/-- Settles O52: the flag is right in every state of the invariant, and the step keeps the invariant. -/
theorem syncFlagTellsTheFrameInProgress : Obligations.SyncFlagTellsTheFrameInProgress := by
  intro s t h hstep
  obtain ⟨-, hinv, -, -⟩ := everyStepKeepsTheInvariant s t h hstep
  exact hinv.sync_iff

/-- The default parameters obey R6; of the open scale only that it is a successor is used. -/
theorem Config.defaults_valid : Config.defaults.Valid := by
  simp [Params.Valid, Config.defaults]

/-- Settles O49. -/
theorem resetStateMeetsTheInvariant : Obligations.ResetStateMeetsTheInvariant :=
  ⟨Config.defaults_valid, Receive.inv_of_awaitStart rfl ⟨rfl, rfl, rfl⟩, Memory.wf_reset _, Nat.two_pow_pos _⟩

/-- RESET is the frame reset and no event (41_synchronizer.md R139). -/
theorem exec_reset (s : State) : exec .reset s = .next (s.finishRx s.rx.frameReset Events.none) := rfl

/-- Settles O1. -/
theorem powerOnAndResetHoldTheResetValues : Obligations.PowerOnAndResetHoldTheResetValues :=
  ⟨⟨rfl, rfl, rfl, rfl, rfl⟩, fun s => ⟨_, exec_reset s, rfl, rfl, rfl, rfl, rfl⟩⟩

/-- Settles O29. -/
theorem operandVectorIsThePortsLines : Obligations.OperandVectorIsThePortsLines := by
  refine fun n lines => ⟨length_portBytes n lines, fun i hi => byteAt_portBytes lines hi, ?_⟩
  rintro rfl
  exact portBytes_length_self lines

/-! ## What RX_BYTE writes (20_memory.md R51, 41_synchronizer.md R132 to R137) -/

/-- A late byte leaves the buffer alone. -/
theorem State.received_buf_of_timedOut {s : State} (h : s.TimedOut) (b : Byte) : (s.received b).1.buf = s.rx.buf := by
  simp [State.received, (expired_iff s).mpr h]

/-- A byte in time goes to its phase's procedure. -/
theorem State.received_of_not_timedOut {s : State} (h : ¬s.TimedOut) (b : Byte) :
    s.received b = (s.rx.stamp s.now).accept s.params b := by
  simp [State.received, mt (expired_iff s).mp h]

/-- A byte in AWAIT_START is never late. -/
theorem State.received_of_awaitStart {s : State} (h : s.rx.phase = .awaitStart) (b : Byte) :
    s.received b = (s.rx.stamp s.now).accept s.params b :=
  State.received_of_not_timedOut (fun ⟨hphase, _⟩ => hphase h) b

/-- Settles O21: RX_BYTE answers `received`, whose buffer is read case by case. -/
theorem rxByteWritesOnlyItsByte : Obligations.RxByteWritesOnlyItsByte := by
  intro s b h
  have hcomplete := h.execRxByte_eq b
  obtain ⟨⟨-, hcap, -⟩, ⟨-, -, -, hready⟩, hwf, -⟩ := h
  refine ⟨_, hcomplete, rfl, rfl, rfl, s.received_tLast b, rfl, rfl, rfl, rfl, ?late, ?marker, ?hunt, ?inFrame⟩
  case late =>
    intro hlate a
    rw [State.finishRx_rx, State.received_buf_of_timedOut hlate]
  case marker =>
    rintro hphase hprev rfl
    have hread := Receive.read_marked (r := s.rx.stamp s.now) hwf (by omega)
    rw [State.finishRx_rx, State.received_of_awaitStart hphase, Receive.accept_marker (r := s.rx.stamp s.now) hphase hprev]
    refine ⟨hread 0, hread 1, fun a ha => ?_⟩
    rw [hread, if_neg (by omega), if_neg (by omega)]
    rfl
  case hunt =>
    intro hphase hno a
    rw [State.finishRx_rx, State.received_of_awaitStart hphase, Receive.accept_hunt (r := s.rx.stamp s.now) hphase hno]
    rfl
  case inFrame =>
    intro hphase hlive
    have hframe : s.rx.phase = .readHeader ∨ s.rx.phase = .readBody := by
      cases hp : s.rx.phase <;> simp_all
    have hbuf : (s.received b).1.buf = s.rx.buf.write s.rx.cur.toNat b := by
      rw [State.received_of_not_timedOut hlive]
      exact Receive.accept_buf_of_inFrame (r := s.rx.stamp s.now) hframe
    rw [State.finishRx_rx, hbuf]
    refine ⟨?_, fun a ha => ?_⟩
    · rw [Memory.read_write _ _ _ hwf, if_pos rfl]
    · rw [Memory.read_write _ _ _ hwf, if_neg ha]

/-! ## Where each output comes from (10_state.md R34) -/

/-- The outputs that R34 allows a step of the operation `i`: a frame and a diagnostic from the synchronizer's operations, each
result of the codec and the telemetry decoder exactly from its own operation, and no kind. -/
def Outputs.ComeFrom (o : Outputs) (i : Instr) : Prop :=
  (o.frame ≠ .none → ∃ b, i = .rxByte b) ∧ (o.diag ≠ .none → i = .timeCheck ∨ ∃ b, i = .rxByte b) ∧
  (o.enc ≠ .none ↔ i = .encode) ∧ (o.val ≠ .none ↔ i = .validate) ∧ (o.tel ≠ .none ↔ ∃ v, i = .telemDecode v) ∧ o.kind = .none

/-- A decoded command word is never a FRAME row. -/
theorem decodeCommand_format {w : Word} {i : Instr} (h : decodeCommand w = .ok i) : i.format = .cmd16 := by
  unfold decodeCommand at h
  repeat' split at h
  all_goals cases h
  all_goals rfl

/-- TIME_CHECK never emits a frame. -/
theorem execTimeCheck_comeFrom {s t : State} (h : execTimeCheck s = .next t) : t.out.ComeFrom .timeCheck := by
  rcases execTimeCheck_cases s with ⟨-, heq⟩ | ⟨-, heq⟩ <;> cases heq.symm.trans h <;> simp [Outputs.ComeFrom, Outputs.none]

/-- Every operation that answers outputs what R34 gives it. -/
theorem exec_comeFrom {i : Instr} {s t : State} (hformat : i.format = .cmd16) (h : exec i s = .next t) : t.out.ComeFrom i := by
  cases i with
  | timeCheck => exact execTimeCheck_comeFrom h
  | rxByte b =>
    obtain ⟨r, e, rfl⟩ := execRxByte_next h
    simp [Outputs.ComeFrom]
  | reset | encode | validate | telemDecode =>
    cases h
    simp [Outputs.ComeFrom, Outputs.none, State.finishRx]
  | frameDiscovery | frameRegRequest | frameAddrAssign | frameAddrConfirm | frameRemove | frameInfoRequest | frameInfoResponse
  | frameUnknown => cases hformat
  | reservedOp110 | reservedOp111 => cases h

/-- Settles O53: the step runs the decoded operation, which is no FRAME row. -/
theorem outputsComeOnlyFromTheirOperations : Obligations.OutputsComeOnlyFromTheirOperations := by
  intro s t p rest i hs hi hstep
  exact exec_comeFrom (decodeCommand_format hi) ((step_of_decode hs hi).symm.trans hstep)

/-! ## What no output can depend on (10_state.md R36, R37; 20_memory.md R64)

Two records that agree on all but the stale bytes and the idle `tLast` stay so under every operation, and the events are the
same: every byte that a procedure reads lies below the cursor. -/

/-! ### The record's operations on two records that agree -/

theorem Receive.frameReset_agrees (r₁ r₂ : Receive) : r₁.frameReset.Agrees r₂.frameReset :=
  ⟨rfl, rfl, rfl, rfl, rfl, fun h => absurd rfl h, fun i hi => absurd hi (Nat.not_lt_zero i)⟩

/-- The first bytes of a buffer are its reads below their number. -/
theorem Memory.prefixBytes_congr {m₁ m₂ : Memory} {n : Nat} (h : ∀ i, i < n → m₁.read i = m₂.read i) :
    m₁.prefixBytes n = m₂.prefixBytes n :=
  List.map_congr_left fun i hi => h i (List.mem_range.mp hi)

/-- The timeout reads `tLast` only outside AWAIT_START. -/
theorem Receive.Agrees.expired_eq {r₁ r₂ : Receive} (h : r₁.Agrees r₂) (p : Params) (now : Nat) :
    r₁.expired p now = r₂.expired p now := by
  obtain ⟨hphase, -, -, -, -, htime, -⟩ := h
  by_cases hawait : r₁.phase = .awaitStart
  · simp [Receive.expired, ← hphase, hawait]
  · simp [Receive.expired, ← hphase, htime hawait]

/-- Storing the same byte at the same cursor extends the agreement by one byte. -/
theorem Receive.Agrees.after_stored {cap : Nat} {r₁ r₂ : Receive} (h : r₁.Agrees r₂) (hwf₁ : r₁.buf.wf cap = true)
    (hwf₂ : r₂.buf.wf cap = true) (hcur : r₁.cur.toNat < 511) (b : Byte) : (r₁.stored b).Agrees (r₂.stored b) := by
  obtain ⟨hphase, hcur_eq, hrem, hsync, hprev, htime, hbuf⟩ := h
  refine ⟨hphase, congrArg (· + 1#9) hcur_eq, hrem, hsync, hprev, htime, fun i hi => ?_⟩
  rw [Receive.stored_cur_toNat hcur] at hi
  rw [Receive.read_stored hwf₁, Receive.read_stored hwf₂, ← hcur_eq]
  split
  case isTrue => rfl
  case isFalse hne => exact hbuf i (by omega)

/-- The end of a header reads the length byte, which lies below the cursor. -/
theorem Receive.Agrees.after_headerComplete {r₁ r₂ : Receive} (h : r₁.Agrees r₂) (hcur : 6 < r₁.cur.toNat) (p : Params)
    (htime : r₁.tLast = r₂.tLast) :
    (headerComplete p r₁).1.Agrees (headerComplete p r₂).1 ∧ (headerComplete p r₁).2 = (headerComplete p r₂).2 := by
  obtain ⟨-, hcur_eq, -, hsync, hprev, -, hbuf⟩ := h
  have hlen := hbuf 6 hcur
  rcases headerComplete_cases p r₁ with ⟨hlen₁, heq₁⟩ | ⟨hlen₁, heq₁⟩ <;>
    rcases headerComplete_cases p r₂ with ⟨hlen₂, heq₂⟩ | ⟨hlen₂, heq₂⟩ <;> rw [hlen] at hlen₁
  · rw [heq₁, heq₂]
    exact ⟨Receive.frameReset_agrees r₁ r₂, rfl⟩
  · omega
  · omega
  · rw [heq₁, heq₂]
    exact ⟨⟨rfl, hcur_eq, congrArg bytesRemaining hlen, hsync, hprev, fun _ => htime, hbuf⟩, rfl⟩

/-- A completed frame is validated from the bytes below the cursor alone. -/
theorem complete_agrees {r₁ r₂ : Receive} (hcur : r₁.cur = r₂.cur) (hbuf : ∀ i, i < r₁.cur.toNat → r₁.buf.read i = r₂.buf.read i) :
    (complete r₁).1.Agrees (complete r₂).1 ∧ (complete r₁).2 = (complete r₂).2 := by
  rw [complete_eq, complete_eq, ← hcur, Memory.prefixBytes_congr hbuf]
  exact ⟨Receive.frameReset_agrees r₁ r₂, rfl⟩

/-- A byte taken at the same time by two records that agree leaves them agreeing, with the same events. -/
theorem Receive.Agrees.after_accept {p : Params} {r₁ r₂ : Receive} (h : r₁.Agrees r₂) (hinv : r₁.Inv p) (hcap : 2 ≤ p.bufCap)
    (hwf₁ : r₁.buf.wf p.bufCap = true) (hwf₂ : r₂.buf.wf p.bufCap = true) (htime : r₁.tLast = r₂.tLast) (b : Byte) :
    (r₁.accept p b).1.Agrees (r₂.accept p b).1 ∧ (r₁.accept p b).2 = (r₂.accept p b).2 := by
  have hagrees := h
  obtain ⟨hphase, hcur, hrem, hsync, hprev, -, hbuf⟩ := h
  obtain ⟨-, hheader, hbody, hready⟩ := hinv
  cases hp : r₁.phase with
  | awaitStart =>
    by_cases hmark : r₁.prev = 0xAA#8 ∧ b = 0x55#8
    · obtain ⟨hprev₁, rfl⟩ := hmark
      rw [Receive.accept_marker hp hprev₁, Receive.accept_marker (hphase ▸ hp) (hprev ▸ hprev₁)]
      refine ⟨⟨rfl, rfl, rfl, rfl, hprev, fun _ => htime, fun i hi => ?_⟩, rfl⟩
      have hi : i < 2 := hi
      rw [Receive.read_marked hwf₁ hcap, Receive.read_marked hwf₂ hcap]
      interval_cases i <;> rfl
    · rw [Receive.accept_hunt hp hmark, Receive.accept_hunt (hphase ▸ hp) (hprev ▸ hmark)]
      exact ⟨⟨hphase, hcur, hrem, hsync, rfl, fun _ => htime, hbuf⟩, rfl⟩
  | readHeader =>
    obtain ⟨-, hhigh, -⟩ := hheader hp
    have hstored := hagrees.after_stored hwf₁ hwf₂ (by omega) b
    rw [Receive.accept_header hp, Receive.accept_header (hphase ▸ hp), ← hcur]
    split
    case isTrue hlast =>
      exact hstored.after_headerComplete (by rw [Receive.stored_cur_toNat (by omega)]; simp [hlast]) p htime
    case isFalse => exact ⟨hstored, rfl⟩
  | readBody =>
    obtain ⟨-, hhigh, -⟩ := hbody hp
    have hstored := hagrees.after_stored hwf₁ hwf₂ (by omega) b
    rw [Receive.accept_body hp, Receive.accept_body (hphase ▸ hp), ← hrem]
    obtain ⟨-, hcur', -, -, -, -, hbuf'⟩ := hstored
    split
    case isTrue => exact complete_agrees hcur' hbuf'
    case isFalse => exact ⟨⟨hphase, hcur', rfl, hsync, hprev, fun _ => htime, hbuf'⟩, rfl⟩
  | frameReady => exact absurd hp hready

/-! ### The operations of the block on two states that agree -/

/-- Two states of the invariant with the same parameters and the same future inputs, whose records agree. -/
structure State.Twins (s₁ s₂ : State) : Prop where
  inv₁ : s₁.Inv
  inv₂ : s₂.Inv
  params : s₁.params = s₂.params
  script : s₁.script = s₂.script
  agrees : s₁.rx.Agrees s₂.rx

/-- Two answers that the host cannot tell apart, and after which the records still agree. -/
inductive SameAnswer : Outcome → Outcome → Prop
  | next {t₁ t₂ : State} (out : t₁.out = t₂.out) (agrees : t₁.rx.Agrees t₂.rx) : SameAnswer (.next t₁) (.next t₂)
  | refused (r : Refusal) : SameAnswer (.refused r) (.refused r)

/-- The codec, the telemetry decoder and the FRAME rows answer outputs that neither the record nor the earlier outputs reach. -/
theorem exec_pure_blind {i : Instr} (s : State) (hi : i = .encode ∨ i = .validate ∨ (∃ v, i = .telemDecode v) ∨ i.format = .frameCf) :
    ∃ o, ∀ r o', exec i ((s.withRx r).withOut o') = .next ((s.withRx r).withOut o) := by
  rcases hi with rfl | rfl | ⟨v, rfl⟩ | hformat
  · let q := s.ports
    let out := serialize q.encOrigin q.encTarget q.encControl q.encFunction q.encLen s.encOperand
    exact ⟨{ Outputs.none with enc := some { out := out, outLen := q.encLen.setWidth 9 + 9#9 } }, fun _ _ => rfl⟩
  · let v := validateFn s.valOperand
    exact ⟨{ Outputs.none with val := some { status := v.1, fr := v.2 } }, fun _ _ => rfl⟩
  · exact ⟨{ Outputs.none with tel := some (decodeTelemetry s.params v s.telOperand) }, fun _ _ => rfl⟩
  · cases i with
    | frameDiscovery | frameRegRequest | frameAddrAssign | frameAddrConfirm | frameRemove | frameInfoRequest | frameInfoResponse
    | frameUnknown => exact ⟨_, fun _ _ => rfl⟩
    | timeCheck | rxByte | reset | encode | validate | telemDecode | reservedOp110 | reservedOp111 => cases hformat

theorem State.Twins.eq_withRx_withOut {s₁ s₂ : State} (h : s₁.Twins s₂) (hports : s₁.ports = s₂.ports) :
    s₂ = (s₁.withRx s₂.rx).withOut s₂.out := by
  obtain ⟨-, -, hparams, hscript, -⟩ := h
  simp only [State.withRx, State.withOut, hparams, hports, hscript]

/-- Pure operations give twins the same outputs and leave their records. -/
theorem State.Twins.sameAnswer_pure {s₁ s₂ : State} (h : s₁.Twins s₂) (hports : s₁.ports = s₂.ports) {i : Instr}
    (hi : i = .encode ∨ i = .validate ∨ (∃ v, i = .telemDecode v) ∨ i.format = .frameCf) :
    SameAnswer (exec i s₁) (exec i s₂) := by
  obtain ⟨o, hblind⟩ := exec_pure_blind s₁ hi
  have h₁ : exec i s₁ = .next (s₁.withOut o) := hblind s₁.rx s₁.out
  rw [h.eq_withRx_withOut hports, h₁, hblind]
  exact .next rfl h.agrees

theorem State.Twins.now_eq {s₁ s₂ : State} (h : s₁.Twins s₂) (hports : s₁.ports = s₂.ports) : s₁.now = s₂.now := by
  simp only [State.now, hports, h.params]

/-- Twins time out together. -/
theorem State.Twins.sameAnswer_timeCheck {s₁ s₂ : State} (h : s₁.Twins s₂) (hports : s₁.ports = s₂.ports) :
    SameAnswer (execTimeCheck s₁) (execTimeCheck s₂) := by
  have hexp := h.agrees.expired_eq s₁.params s₁.now
  rcases execTimeCheck_cases s₁ with ⟨h₁, heq₁⟩ | ⟨h₁, heq₁⟩ <;>
    rcases execTimeCheck_cases s₂ with ⟨h₂, heq₂⟩ | ⟨h₂, heq₂⟩ <;>
    rw [h₁, h.params, h.now_eq hports, h₂] at hexp
  · rw [heq₁, heq₂]
    exact .next rfl (Receive.frameReset_agrees _ _)
  · cases hexp
  · cases hexp
  · rw [heq₁, heq₂]
    exact .next rfl h.agrees

/-- Twins take a byte alike: late in both or in neither. -/
theorem State.Twins.after_received {s₁ s₂ : State} (h : s₁.Twins s₂) (hports : s₁.ports = s₂.ports) (b : Byte) :
    (s₁.received b).1.Agrees (s₂.received b).1 ∧ (s₁.received b).2 = (s₂.received b).2 := by
  obtain ⟨⟨⟨-, hcap, -⟩, hinv, hwf₁, -⟩, ⟨-, -, hwf₂, -⟩, hparams, -, hagrees⟩ := id h
  unfold State.received
  rw [← hparams, ← h.now_eq hports, ← hagrees.expired_eq]
  split
  case isTrue =>
    exact ⟨⟨rfl, rfl, rfl, rfl, rfl, fun _ => rfl, fun i hi => absurd hi (Nat.not_lt_zero i)⟩, rfl⟩
  case isFalse =>
    obtain ⟨hphase, hcur, hrem, hsync, hprev, -, hbuf⟩ := hagrees
    exact Receive.Agrees.after_accept (r₁ := s₁.rx.stamp s₁.now) (r₂ := s₂.rx.stamp s₁.now)
      ⟨hphase, hcur, hrem, hsync, hprev, fun _ => rfl, hbuf⟩ hinv (by omega) hwf₁ (by rwa [hparams]) rfl b

/-- Every operation answers twins alike. -/
theorem State.Twins.sameAnswer_exec {s₁ s₂ : State} (h : s₁.Twins s₂) (hports : s₁.ports = s₂.ports) (i : Instr) :
    SameAnswer (exec i s₁) (exec i s₂) := by
  cases i with
  | timeCheck => exact h.sameAnswer_timeCheck hports
  | rxByte b =>
    obtain ⟨hagrees, hevents⟩ := h.after_received hports b
    have heq₁ : exec (.rxByte b) s₁ = _ := h.inv₁.execRxByte_eq b
    have heq₂ : exec (.rxByte b) s₂ = _ := h.inv₂.execRxByte_eq b
    rw [heq₁, heq₂]
    exact .next (congrArg Events.outputs hevents) hagrees
  | reset => exact .next rfl (Receive.frameReset_agrees _ _)
  | encode | validate | telemDecode | frameDiscovery | frameRegRequest | frameAddrAssign | frameAddrConfirm | frameRemove
  | frameInfoRequest | frameInfoResponse | frameUnknown => exact h.sameAnswer_pure hports (by simp [Instr.format])
  | reservedOp110 | reservedOp111 => exact .refused _

/-- A presented word that the decoder rejects has no step (60_exceptions.md R216). -/
theorem step_of_decode_error {s : State} {p : Ports} {rest : List Ports} {e : WordError}
    (hs : s.script = p :: rest) (hi : decodeCommand p.cmd = .error e) : step s = .refused (.illegalWord e) := by
  simp only [step, hs, fetchCommand, hi]

/-- A step answers twins alike: both sample the same inputs. -/
theorem State.Twins.sameAnswer_step {s₁ s₂ : State} (h : s₁.Twins s₂) : SameAnswer (step s₁) (step s₂) := by
  cases hs : s₁.script with
  | nil =>
    rw [step_of_script_nil hs, step_of_script_nil (h.script ▸ hs)]
    exact .refused _
  | cons p rest =>
    cases hi : decodeCommand p.cmd with
    | error e =>
      rw [step_of_decode_error hs hi, step_of_decode_error (h.script ▸ hs) hi]
      exact .refused _
    | ok i =>
      rw [step_of_decode hs hi, step_of_decode (h.script ▸ hs) hi]
      exact State.Twins.sameAnswer_exec ⟨h.inv₁.sample p rest, h.inv₂.sample p rest, h.params, rfl, h.agrees⟩ rfl i

/-- Twins that step stay twins. -/
theorem State.Twins.after_step {s₁ s₂ t₁ t₂ : State} (h : s₁.Twins s₂) (hstep₁ : step s₁ = .next t₁)
    (hstep₂ : step s₂ = .next t₂) (hagrees : t₁.rx.Agrees t₂.rx) : t₁.Twins t₂ := by
  obtain ⟨hparams₁, hscript₁⟩ := stepKeepsParametersAndTakesOneInput s₁ t₁ hstep₁
  obtain ⟨hparams₂, hscript₂⟩ := stepKeepsParametersAndTakesOneInput s₂ t₂ hstep₂
  have hscript : t₁.ports :: t₁.script = t₂.ports :: t₂.script := by rw [← hscript₁, ← hscript₂, h.script]
  exact ⟨everyStepKeepsTheInvariant s₁ t₁ h.inv₁ hstep₁, everyStepKeepsTheInvariant s₂ t₂ h.inv₂ hstep₂,
    by rw [hparams₁, hparams₂, h.params], (List.cons.inj hscript).2, hagrees⟩

/-- Twins give the same outputs for any number of steps. -/
theorem State.Twins.outputTrace_eq (n : Nat) {s₁ s₂ : State} (h : s₁.Twins s₂) : outputTrace n s₁ = outputTrace n s₂ := by
  induction n generalizing s₁ s₂ with
  | zero => rfl
  | succ n ih =>
    have hsame := h.sameAnswer_step
    simp only [outputTrace]
    generalize hstep₁ : step s₁ = a₁, hstep₂ : step s₂ = a₂ at hsame
    cases hsame with
    | next hout hagrees => simp only [hout, ih (h.after_step hstep₁ hstep₂ hagrees)]
    | refused r => rfl

/-- Settles O55: states that agree are twins. -/
theorem staleBytesAndIdleTimeAreUnobservable : Obligations.StaleBytesAndIdleTimeAreUnobservable :=
  fun n _ _ hinv₁ hinv₂ hparams hscript hagrees => State.Twins.outputTrace_eq n ⟨hinv₁, hinv₂, hparams, hscript, hagrees⟩

end Sys2Proof.Machine

namespace Sys2Proof.Machine

/-! ## The codec, the telemetry decoder and the record (20_memory.md R57) -/

/-- Settles O54: one output serves for every record and every earlier output, so also for the state the first run leaves. -/
theorem pureOperationsAreIdempotentAndBlindToTheRecord : Obligations.PureOperationsAreIdempotentAndBlindToTheRecord := by
  intro s r i hi
  obtain ⟨o, hblind⟩ := exec_pure_blind s (hi.imp_right (Or.imp_right Or.inl))
  exact ⟨o, hblind s.rx s.out, hblind s.rx o, hblind r s.out⟩

/-! ## A frame delivered byte by byte (20_memory.md R51, 41_synchronizer.md R142)

The marker is found in two steps from AWAIT_START. From there on one step lemma says all that a frame byte short of the last does,
and a run is that lemma repeated. -/

/-! ### The step that presents a byte within the window -/

theorem decodeCommand_rx (now : Nat) (b : Byte) : decodeCommand (AsmLine.rx now b).ports.cmd = .ok (.rxByte b) := by
  simp [AsmLine.ports, encode, decodeCommand]

/-- The record that takes a byte presented with the time `now`, in time. -/
def State.stampedAt (now : Nat) (s : State) : Receive := s.rx.stamp (now % 2 ^ s.params.timeBits)

@[simp] theorem State.stampedAt_phase (now : Nat) (s : State) : (s.stampedAt now).phase = s.rx.phase := rfl
@[simp] theorem State.stampedAt_buf (now : Nat) (s : State) : (s.stampedAt now).buf = s.rx.buf := rfl
@[simp] theorem State.stampedAt_cur (now : Nat) (s : State) : (s.stampedAt now).cur = s.rx.cur := rfl
@[simp] theorem State.stampedAt_prev (now : Nat) (s : State) : (s.stampedAt now).prev = s.rx.prev := rfl
@[simp] theorem State.stampedAt_tLast (now : Nat) (s : State) : (s.stampedAt now).tLast = now % 2 ^ s.params.timeBits := rfl

/-- Inside the invariant a byte presented in time goes to its phase's procedure. -/
theorem State.Inv.step_rx {s : State} (h : s.Inv) {now : Nat} {b : Byte} {rest : List Ports}
    (hs : s.script = (AsmLine.rx now b).ports :: rest) (hlive : ¬(s.sample (AsmLine.rx now b).ports rest).TimedOut) :
    step s = .next ((s.sample (AsmLine.rx now b).ports rest).finishRx
      ((s.stampedAt now).accept s.params b).1 ((s.stampedAt now).accept s.params b).2) := by
  have hbyte := (h.sample (AsmLine.rx now b).ports rest).execRxByte_eq b
  rw [State.received_of_not_timedOut hlive] at hbyte
  exact (step_of_decode hs (decodeCommand_rx now b)).trans hbyte

/-- The window counts from a time modulo the width of the clock. -/
theorem withinWindow_mod_cons (p : Params) (t : Nat) (times : List Nat) :
    withinWindow p (t % 2 ^ p.timeBits :: times) = withinWindow p (t :: times) := by
  cases times <;> simp only [withinWindow, Nat.mod_mod]

/-- A byte is in time if the window holds from `tLast` to it. -/
theorem State.Inv.not_timedOut_of_withinWindow {s : State} (h : s.Inv) {now : Nat} {times : List Nat}
    (hwindow : withinWindow s.params (s.rx.tLast :: now :: times) = true) (b : Byte) (rest : List Ports) :
    ¬(s.sample (AsmLine.rx now b).ports rest).TimedOut := by
  rintro ⟨-, hlate⟩
  obtain ⟨-, -, -, htime⟩ := h
  obtain ⟨hgap, -⟩ := Bool.and_eq_true_iff.mp hwindow
  rw [decide_eq_true_eq, Nat.mod_eq_of_lt htime] at hgap
  exact absurd hlate (not_lt.mpr hgap)

/-! ### The record while a frame is received -/

/-- The record holds the first `k` bytes of the frame: marker, header and body in wire order from index 0. -/
structure Receive.Holds (frame : List Byte) (k : Nat) (r : Receive) : Prop where
  cur : r.cur.toNat = k
  phase : r.phase = if k < 7 then .readHeader else .readBody
  bytes : ∀ i, i < k → r.buf.read i = byteAt frame i

/-- The frame's length is the one its length byte declares, and the parameters accept it (41_synchronizer.md R134). -/
def FrameFits (p : Params) (frame : List Byte) : Prop :=
  frame.length = (byteAt frame 6).toNat + 9 ∧ (byteAt frame 6).toNat ≤ p.maxDataLen

/-- The time of the byte is no part of what is held. -/
theorem Receive.Holds.stampedAt {frame : List Byte} {k : Nat} {s : State} (h : s.rx.Holds frame k) (now : Nat) :
    (s.stampedAt now).Holds frame k :=
  ⟨h.cur, h.phase, h.bytes⟩

/-- Storing the frame's next byte extends the bytes held. -/
theorem Receive.Holds.read_stored {frame : List Byte} {k cap : Nat} {r : Receive} (h : r.Holds frame k)
    (hwf : r.buf.wf cap = true) (i : Nat) (hi : i < k + 1) : (r.stored (byteAt frame k)).buf.read i = byteAt frame i := by
  rw [Receive.read_stored hwf, h.cur]
  split
  case isTrue heq => rw [heq]
  case isFalse hne => exact h.bytes i (by omega)

theorem Receive.Holds.stored_cur {frame : List Byte} {k : Nat} {b : Byte} {r : Receive} (h : r.Holds frame k) (hk : k < 511) :
    (r.stored b).cur.toNat = k + 1 := by
  rw [Receive.stored_cur_toNat (h.cur ▸ hk), h.cur]

/-- A header byte is held, with no event; the last of them is the length byte, which starts the body. -/
theorem Receive.Holds.after_header {p : Params} {frame : List Byte} {k : Nat} {r : Receive} (h : r.Holds frame k)
    (hwf : r.buf.wf p.bufCap = true) (hfits : FrameFits p frame) (hk : k < 7) :
    ∃ r', r.accept p (byteAt frame k) = (r', Events.none) ∧ r'.Holds frame (k + 1) := by
  have hphase : r.phase = .readHeader := by rw [h.phase, if_pos hk]
  have hcur : (r.stored (byteAt frame k)).cur.toNat = k + 1 := h.stored_cur (by omega)
  have hread := h.read_stored hwf
  rw [Receive.accept_header hphase]
  by_cases hlast : r.cur = 6#9
  case pos =>
    obtain rfl : 6 = k := by rw [← h.cur, hlast]; rfl
    have hlen : (r.stored (byteAt frame 6)).buf.read 6 = byteAt frame 6 := hread 6 (by omega)
    rcases headerComplete_cases p (r.stored (byteAt frame 6)) with ⟨hover, -⟩ | ⟨-, heq⟩
    · obtain ⟨-, haccepted⟩ := hfits
      rw [hlen] at hover
      omega
    · exact ⟨_, (if_pos hlast).trans heq, hcur, rfl, hread⟩
  case neg =>
    have hk6 : k ≠ 6 := fun hk6 => hlast (BitVec.eq_of_toNat_eq (h.cur.trans hk6))
    exact ⟨_, if_neg hlast, hcur, hphase.trans (if_pos (by omega)).symm, hread⟩

/-- A body byte short of the frame's last is held, with no event: in the invariant `cur + rem` is the frame's length. -/
theorem Receive.Holds.after_body {p : Params} {frame : List Byte} {k : Nat} {r : Receive} (h : r.Holds frame k) (hinv : r.Inv p)
    (hwf : r.buf.wf p.bufCap = true) (hfits : FrameFits p frame) (hk : 7 ≤ k) (hmore : k + 1 < frame.length) :
    ∃ r', r.accept p (byteAt frame k) = (r', Events.none) ∧ r'.Holds frame (k + 1) := by
  obtain ⟨hlength, -⟩ := hfits
  have hbyte := (byteAt frame 6).isLt
  have hphase : r.phase = .readBody := by rw [h.phase, if_neg (by omega)]
  have hrem : r.rem ≠ 1#9 := by
    intro h1
    obtain ⟨-, -, hbody, -⟩ := hinv
    obtain ⟨-, -, -, -, -, -, -, -, hsum⟩ := hbody hphase
    have hrem1 : r.rem.toNat = 1 := by rw [h1]; rfl
    rw [hrem1, h.cur, h.bytes 6 (by omega)] at hsum
    omega
  have hcur : (r.stored (byteAt frame k)).cur.toNat = k + 1 := h.stored_cur (by omega)
  exact ⟨_, (Receive.accept_body hphase).trans (if_neg hrem), hcur, hphase.trans (if_neg (by omega)).symm,
    h.read_stored hwf⟩

/-- A byte of the frame short of the last is held, with no event. -/
theorem Receive.Holds.after_accept {p : Params} {frame : List Byte} {k : Nat} {r : Receive} (h : r.Holds frame k) (hinv : r.Inv p)
    (hwf : r.buf.wf p.bufCap = true) (hfits : FrameFits p frame) (hmore : k + 1 < frame.length) :
    ∃ r', r.accept p (byteAt frame k) = (r', Events.none) ∧ r'.Holds frame (k + 1) := by
  by_cases hk : k < 7
  case pos => exact h.after_header hwf hfits hk
  case neg => exact h.after_body hinv hwf hfits (by omega) hmore

/-! ### The steps that deliver a frame -/

/-- The block holds the first `k` bytes of the frame, and the host delivers the others at the times given for them. -/
structure State.Receiving (frame : List Byte) (times : List Nat) (rest : List Ports) (k : Nat) (s : State) : Prop where
  inv : s.Inv
  holds : s.rx.Holds frame k
  fits : FrameFits s.params frame
  window : withinWindow s.params (s.rx.tLast :: times.drop k) = true
  script : s.script = rxScript ((times.drop k).zip (frame.drop k)) ++ rest

theorem rxScript_zip_cons (now : Nat) (times : List Nat) (b : Byte) (bytes : List Byte) :
    rxScript ((now :: times).zip (b :: bytes)) = (AsmLine.rx now b).ports :: rxScript (times.zip bytes) := rfl

theorem byteAt_eq_getElem {p : List Byte} {i : Nat} (h : i < p.length) : byteAt p i = p[i] := by
  simp [byteAt, h]

/-- A step short of the frame's last byte delivers one byte and no output. -/
theorem State.Receiving.step_next {frame : List Byte} {times : List Nat} {rest : List Ports} {k : Nat} {s : State}
    (h : s.Receiving frame times rest k) (htimes : times.length = frame.length) (hmore : k + 1 < frame.length) :
    ∃ t, step s = .next t ∧ t.out = Outputs.none ∧ t.Receiving frame times rest (k + 1) := by
  obtain ⟨hinv, hholds, hfits, hwindow, hscript⟩ := h
  rw [List.drop_eq_getElem_cons (by omega : k < times.length)] at hwindow hscript
  rw [List.drop_eq_getElem_cons (by omega : k < frame.length), ← byteAt_eq_getElem, rxScript_zip_cons,
    List.cons_append] at hscript
  have hstep := hinv.step_rx hscript (hinv.not_timedOut_of_withinWindow hwindow _ _)
  have hinv' := everyStepKeepsTheInvariant _ _ hinv hstep
  obtain ⟨-, hsound, hwf, -⟩ := hinv
  obtain ⟨r', heq, hholds'⟩ := (hholds.stampedAt times[k]).after_accept hsound hwf hfits hmore
  have htLast := Receive.accept_tLast s.params (byteAt frame k) (s.stampedAt times[k])
  rw [heq] at hstep hinv' htLast
  refine ⟨_, hstep, rfl, hinv', hholds', hfits, ?_, rfl⟩
  obtain ⟨-, hlater⟩ := Bool.and_eq_true_iff.mp hwindow
  rw [State.finishRx_rx, htLast]
  exact (withinWindow_mod_cons _ _ _).trans hlater

/-- A run whose first step answers is that step and the run from its answer. -/
theorem core_run_succ {s t : State} (hstep : step s = .next t) (n : Nat) :
    Sys2Proof.core.run (n + 1) s = Sys2Proof.core.run n t := by
  have hcore : Sys2Proof.core.step s = .next t := hstep
  simp only [Host.Core.run, hcore]

/-- A run that ends short of the frame's last byte delivers one byte a step. -/
theorem State.Receiving.run {frame : List Byte} {times : List Nat} {rest : List Ports} (n : Nat) {k : Nat} {s : State}
    (h : s.Receiving frame times rest k) (htimes : times.length = frame.length) (hmore : k + n < frame.length) :
    ∃ u, Sys2Proof.core.run n s = .next u ∧ u.Receiving frame times rest (k + n) := by
  induction n generalizing k s with
  | zero => exact ⟨s, rfl, h⟩
  | succ n ih =>
    obtain ⟨t, hstep, -, ht⟩ := h.step_next htimes (by omega)
    obtain ⟨u, hrun, hu⟩ := ih ht (by omega)
    exact ⟨u, (core_run_succ hstep n).trans hrun, by rwa [Nat.add_right_comm, Nat.add_assoc] at hu⟩

/-! ### The marker -/

theorem serialize_eq_marker_cons (o t c f n : Byte) (d : List Byte) :
    serialize o t c f n d = 0xAA#8 :: 0x55#8 :: (serialize o t c f n d).drop 2 := rfl

theorem byteAt_serialize_zero (o t c f n : Byte) (d : List Byte) : byteAt (serialize o t c f n d) 0 = 0xAA#8 := rfl

theorem byteAt_serialize_one (o t c f n : Byte) (d : List Byte) : byteAt (serialize o t c f n d) 1 = 0x55#8 := rfl

theorem byteAt_serialize_length (o t c f n : Byte) (d : List Byte) : byteAt (serialize o t c f n d) 6 = n := rfl

/-- An encoded frame fits parameters that accept its data. -/
theorem frameFits_serialize {p : Params} (hvalid : p.Valid) (o t c f : Byte) {d : List Byte} (hd : d.length ≤ p.maxDataLen) :
    FrameFits p (serialize o t c f (BitVec.ofNat 8 d.length) d) := by
  obtain ⟨hmax, -⟩ := hvalid
  have hlen : (BitVec.ofNat 8 d.length).toNat = d.length := by rw [BitVec.toNat_ofNat, Nat.mod_eq_of_lt (by omega)]
  rw [FrameFits, byteAt_serialize_length, length_serialize, hlen]
  exact ⟨rfl, hd⟩

/-- In AWAIT_START no byte is late, so a presented byte is taken whatever its time. -/
theorem State.Inv.step_rx_of_awaitStart {s : State} (h : s.Inv) (hphase : s.rx.phase = .awaitStart) {now : Nat} {b : Byte}
    {rest : List Ports} (hs : s.script = (AsmLine.rx now b).ports :: rest) :
    step s = .next ((s.sample (AsmLine.rx now b).ports rest).finishRx
      ((s.stampedAt now).accept s.params b).1 ((s.stampedAt now).accept s.params b).2) :=
  h.step_rx hs fun ⟨hlate, _⟩ => hlate hphase

/-- The first marker byte, taken in AWAIT_START, is remembered there with no output, whatever byte came before it. -/
theorem State.Inv.step_mark0 {s : State} (h : s.Inv) (hphase : s.rx.phase = .awaitStart) {now : Nat} {rest : List Ports}
    (hs : s.script = (AsmLine.rx now 0xAA#8).ports :: rest) :
    ∃ t, step s = .next t ∧ t.out = Outputs.none ∧ t.Inv ∧ t.params = s.params ∧ t.script = rest ∧
      t.rx.phase = .awaitStart ∧ t.rx.prev = 0xAA#8 := by
  have hstep := h.step_rx_of_awaitStart hphase hs
  rw [Receive.accept_hunt (r := s.stampedAt now) hphase (by simp)] at hstep
  exact ⟨_, hstep, rfl, everyStepKeepsTheInvariant _ _ h hstep, rfl, rfl, hphase, rfl⟩

/-- The second marker byte starts the frame with both marker bytes held and no output. -/
theorem State.Inv.step_mark1 {s : State} (h : s.Inv) (hphase : s.rx.phase = .awaitStart) (hprev : s.rx.prev = 0xAA#8) {now : Nat}
    {rest : List Ports} (hs : s.script = (AsmLine.rx now 0x55#8).ports :: rest) (frame : List Byte) (h0 : byteAt frame 0 = 0xAA#8)
    (h1 : byteAt frame 1 = 0x55#8) :
    ∃ t, step s = .next t ∧ t.out = Outputs.none ∧ t.Inv ∧ t.params = s.params ∧ t.script = rest ∧
      t.rx.tLast = now % 2 ^ s.params.timeBits ∧ t.rx.Holds frame 2 := by
  have hstep := h.step_rx_of_awaitStart hphase hs
  rw [Receive.accept_marker (r := s.stampedAt now) hphase hprev] at hstep
  have hinv := everyStepKeepsTheInvariant _ _ h hstep
  obtain ⟨-, ⟨-, hheader, -⟩, -⟩ := id hinv
  obtain ⟨-, -, -, -, hread0, hread1⟩ := hheader rfl
  refine ⟨_, hstep, rfl, hinv, rfl, rfl, rfl, ⟨rfl, rfl, fun i hi => ?_⟩⟩
  interval_cases i
  · exact hread0.trans h0.symm
  · exact hread1.trans h1.symm

/-- Two steps from AWAIT_START the block receives the encoded frame that the host delivers. -/
theorem State.Inv.run_marker {s : State} (h : s.Inv) (hphase : s.rx.phase = .awaitStart) (o t c f : Byte) {d : List Byte}
    (hd : d.length ≤ s.params.maxDataLen) {times : List Nat} (htimes : times.length = d.length + 9)
    (hwindow : withinWindow s.params times = true) {rest : List Ports}
    (hs : s.script = rxScript (times.zip (serialize o t c f (BitVec.ofNat 8 d.length) d)) ++ rest) :
    ∃ u, (∀ n, Sys2Proof.core.run (n + 2) s = Sys2Proof.core.run n u) ∧
      u.Receiving (serialize o t c f (BitVec.ofNat 8 d.length) d) times rest 2 := by
  obtain ⟨hvalid, -⟩ := id h
  have hfits := frameFits_serialize hvalid o t c f hd
  match times, htimes with
  | t0 :: t1 :: ts, _ =>
    rw [serialize_eq_marker_cons] at hs
    obtain ⟨u, hstep, -, hinv, hparams, hscript, hphase, hprev⟩ := h.step_mark0 hphase hs
    obtain ⟨v, hstep', -, hinv', hparams', hscript', htLast, hholds⟩ := hinv.step_mark1 hphase hprev hscript
      (serialize o t c f (BitVec.ofNat 8 d.length) d) (byteAt_serialize_zero ..) (byteAt_serialize_one ..)
    refine ⟨v, fun n => (core_run_succ hstep (n + 1)).trans (core_run_succ hstep' n), hinv', hholds, ?_, ?_, hscript'⟩
    · rwa [hparams', hparams]
    · obtain ⟨-, hlater⟩ := Bool.and_eq_true_iff.mp hwindow
      rw [htLast, hparams', hparams]
      exact (withinWindow_mod_cons _ _ _).trans hlater

/-- Settles O27: two steps for the marker, then one for each byte after it. -/
theorem bufferHoldsTheFrameInWireOrder : Obligations.BufferHoldsTheFrameInWireOrder := by
  intro s o t c f d times rest k hinv hphase hd htimes hwindow hscript hk2 hk
  obtain ⟨n, rfl⟩ := Nat.exists_eq_add_of_le hk2
  obtain ⟨v, hrun, hv⟩ := hinv.run_marker hphase o t c f hd htimes hwindow hscript
  obtain ⟨u, hrun', hu⟩ := hv.run n (by rw [htimes, length_serialize]) (by rw [length_serialize]; omega)
  rw [Nat.add_comm 2 n] at hu ⊢
  exact ⟨u, (hrun n).trans hrun', hu.holds.cur, hu.holds.phase, hu.holds.bytes⟩

end Sys2Proof.Machine

namespace Sys2Proof.Machine

/-! ## The decoder and the encoder are inverse (30_encoding.md R79 to R83, R90 to R97)

The encoder's words decode back row by row; a word the command decoder takes is put together again from its four fields, and one it
does not take breaks an item of R82. The statements about rows and refusals are read off these. -/

/-! ### Encoding, then decoding -/

@[simp] theorem variantOfBit_bit (v : Variant) : variantOfBit v.bit = v := by cases v <;> rfl

@[simp] theorem bit_variantOfBit (b : BitVec 1) : (variantOfBit b).bit = b := by
  rcases BitVec.eq_zero_or_eq_one b with rfl | rfl <;> rfl

/-- The decoder gives back the instruction of every command row, reserved rows included (R80). -/
theorem decodeCommand_encode {i : Instr} (hformat : i.format = .cmd16) : decodeCommand (encode i) = .ok i := by
  cases i with
  | timeCheck | rxByte | reset | encode | validate | telemDecode | reservedOp110 | reservedOp111 => simp [decodeCommand, encode]
  | frameDiscovery | frameRegRequest | frameAddrAssign | frameAddrConfirm | frameRemove | frameInfoRequest | frameInfoResponse
  | frameUnknown => cases hformat

/-- A pair that none of R90 to R96 lists has no kind (R97). -/
theorem classify_of_not_recognised {c f : Byte} (h : recognisedPairs.contains (c, f) = false) : classify c f = .unknown := by
  rcases classify_cases c f with hpair | hpair | hpair | hpair | hpair | hpair | hpair | ⟨-, hkind⟩
  iterate 7
    · obtain ⟨rfl, rfl, -⟩ := hpair
      cases h
  exact hkind

/-- A well-formed FRAME.UNKNOWN carries a pair without a kind. -/
theorem classify_of_wellFormed {c f : Byte} (h : (Instr.frameUnknown c f).wellFormed = true) : classify c f = .unknown :=
  classify_of_not_recognised (by simpa only [Instr.wellFormed, Bool.not_eq_true'] using h)

/-- A FRAME row's pair, control byte first, selects the row (40_codec.md R105). -/
theorem decodeFrame_encode {i : Instr} (hformat : i.format = .frameCf) (hwf : i.wellFormed = true) :
    decodeFrame ((encode i).extractLsb' 8 8) ((encode i).extractLsb' 0 8) = i := by
  cases i with
  | frameDiscovery | frameRegRequest | frameAddrAssign | frameAddrConfirm | frameRemove | frameInfoRequest
  | frameInfoResponse => rfl
  | frameUnknown c f => simp [encode, decodeFrame, classify_of_wellFormed hwf]
  | timeCheck | rxByte | reset | encode | validate | telemDecode | reservedOp110 | reservedOp111 => cases hformat

/-- Settles O10, format by format. -/
theorem decodeOfEncodeIsTheInstruction : Obligations.DecodeOfEncodeIsTheInstruction := by
  intro i hwf
  cases hformat : i.format with
  | cmd16 => exact decodeCommand_encode hformat
  | frameCf => exact congrArg Except.ok (decodeFrame_encode hformat hwf)

/-- Settles O12: each word is the encoding of its operation. -/
theorem sampleCommandWordsDecode : Obligations.SampleCommandWordsDecode :=
  ⟨decodeCommand_encode (i := .timeCheck) rfl, decodeCommand_encode (i := .rxByte 0x00#8) rfl,
    decodeCommand_encode (i := .rxByte 0xAA#8) rfl, decodeCommand_encode (i := .rxByte 0xFF#8) rfl,
    decodeCommand_encode (i := .reset) rfl, decodeCommand_encode (i := .encode) rfl, decodeCommand_encode (i := .validate) rfl,
    decodeCommand_encode (i := .telemDecode .single) rfl, decodeCommand_encode (i := .telemDecode .three) rfl⟩

/-! ### Decoding, then encoding -/

/-- The words R82 refuses, item by item. -/
def RefusedWord (w : Word) : Prop :=
  cmdOp w = 0b110#3 ∨ cmdOp w = 0b111#3 ∨ cmdRes w ≠ 0#4 ∨ (cmdOp w ≠ 0b101#3 ∧ cmdV w ≠ 0#1) ∨
    (cmdOp w ≠ 0b001#3 ∧ cmdImm w ≠ 0#8)

/-- A word without reserved bits is the command word of its fields. -/
theorem commandWord_fields {w : Word} (hres : cmdRes w = 0#4) : commandWord (cmdOp w) (cmdV w) (cmdImm w) = w := by
  rw [commandWord, ← hres, cmd_fields]

/-- The one operation code left beside the seven that the decoder compares with is VALIDATE's (R80). -/
theorem op_eq_validate {op : BitVec 3} (h110 : op ≠ 0b110#3) (h111 : op ≠ 0b111#3) (h101 : op ≠ 0b101#3) (h001 : op ≠ 0b001#3)
    (h000 : op ≠ 0b000#3) (h010 : op ≠ 0b010#3) (h011 : op ≠ 0b011#3) : op = 0b100#3 := by
  bv_omega

/-- All the command decoder can do: take a word as the instruction that encodes to it, or reject one that R82 refuses. -/
theorem decodeCommand_cases (w : Word) :
    (∃ i, decodeCommand w = .ok i ∧ encode i = w) ∨ (RefusedWord w ∧ ∃ e, decodeCommand w = .error e) := by
  unfold decodeCommand
  split
  next h110 => exact .inl ⟨_, rfl, by rw [encode, ← h110, cmd_op_free]⟩
  split
  next h111 => exact .inl ⟨_, rfl, by rw [encode, ← h111, cmd_op_free]⟩
  split
  next hres => exact .inr ⟨.inr (.inr (.inl hres)), _, rfl⟩
  next h110 h111 hres =>
  have hfields := commandWord_fields (not_not.mp hres)
  split
  next h101 =>
    split
    next himm => exact .inr ⟨.inr (.inr (.inr (.inr ⟨by simp [h101], himm⟩))), _, rfl⟩
    next himm => exact .inl ⟨_, rfl, by rw [encode, bit_variantOfBit, ← h101, ← not_not.mp himm, hfields]⟩
  split
  next h101 hv => exact .inr ⟨.inr (.inr (.inr (.inl ⟨h101, hv⟩))), _, rfl⟩
  next h101 hv =>
  rw [not_not.mp hv] at hfields
  split
  next h001 => exact .inl ⟨_, rfl, by rw [encode, ← h001, hfields]⟩
  split
  next h001 himm => exact .inr ⟨.inr (.inr (.inr (.inr ⟨h001, himm⟩))), _, rfl⟩
  next h001 himm =>
  rw [not_not.mp himm] at hfields
  split
  next h000 => exact .inl ⟨_, rfl, by rw [encode, ← h000, hfields]⟩
  split
  next h010 => exact .inl ⟨_, rfl, by rw [encode, ← h010, hfields]⟩
  split
  next h011 => exact .inl ⟨_, rfl, by rw [encode, ← h011, hfields]⟩
  next h000 h010 h011 =>
    have h100 := op_eq_validate h110 h111 h101 h001 h000 h010 h011
    exact .inl ⟨_, rfl, by rw [encode, ← h100, hfields]⟩

/-- A word has no second meaning: the command decoder answers only what encodes to it. -/
theorem encode_of_decodeCommand {w : Word} {i : Instr} (h : decodeCommand w = .ok i) : encode i = w := by
  rcases decodeCommand_cases w with ⟨j, hj, henc⟩ | ⟨-, e, he⟩
  · cases hj.symm.trans h
    exact henc
  · cases he.symm.trans h

/-- Every instruction of a command row is well formed: its fields are as wide as their encodings. -/
theorem wellFormed_of_cmd16 {i : Instr} (hformat : i.format = .cmd16) : i.wellFormed = true := by
  cases i with
  | timeCheck | rxByte | reset | encode | validate | telemDecode | reservedOp110 | reservedOp111 => rfl
  | frameDiscovery | frameRegRequest | frameAddrAssign | frameAddrConfirm | frameRemove | frameInfoRequest | frameInfoResponse
  | frameUnknown => cases hformat

/-- The row a pair selects is a FRAME row, well formed, and its word is the pair. -/
theorem decodeFrame_row (c f : Byte) :
    encode (decodeFrame c f) = c ++ f ∧ (decodeFrame c f).format = .frameCf ∧ (decodeFrame c f).wellFormed = true := by
  rcases classify_cases c f with hpair | hpair | hpair | hpair | hpair | hpair | hpair | ⟨hnew, hkind⟩
  iterate 7
    · obtain ⟨rfl, rfl, -⟩ := hpair
      exact ⟨rfl, rfl, rfl⟩
  rw [decodeFrame, hkind]
  exact ⟨rfl, rfl, by rw [Instr.wellFormed, hnew, Bool.not_false]⟩

/-- Settles O11, format by format. -/
theorem encodeOfDecodeIsTheWord : Obligations.EncodeOfDecodeIsTheWord := by
  intro f w i h
  cases f with
  | cmd16 =>
    have hformat := decodeCommand_format h
    exact ⟨encode_of_decodeCommand h, hformat, wellFormed_of_cmd16 hformat⟩
  | frameCf =>
    obtain ⟨henc, hformat, hwf⟩ := decodeFrame_row (w.extractLsb' 8 8) (w.extractLsb' 0 8)
    cases h
    exact ⟨henc.trans (word_bytes w), hformat, hwf⟩

/-! ### The rows of the table (30_encoding.md R80) -/

/-- The word of every instruction lies in its row. -/
theorem encode_and_rowMask (i : Instr) : encode i &&& i.rowMask = i.rowMatch := by
  cases i with
  | timeCheck => exact Laws.WordInRow.timeCheck
  | rxByte b => exact Laws.WordInRow.rxByte b
  | reset => exact Laws.WordInRow.reset
  | encode => exact Laws.WordInRow.encode
  | validate => exact Laws.WordInRow.validate
  | telemDecode v => exact Laws.WordInRow.telemDecode v
  | frameDiscovery => exact Laws.WordInRow.frameDiscovery
  | frameRegRequest => exact Laws.WordInRow.frameRegRequest
  | frameAddrAssign => exact Laws.WordInRow.frameAddrAssign
  | frameAddrConfirm => exact Laws.WordInRow.frameAddrConfirm
  | frameRemove => exact Laws.WordInRow.frameRemove
  | frameInfoRequest => exact Laws.WordInRow.frameInfoRequest
  | frameInfoResponse => exact Laws.WordInRow.frameInfoResponse
  | frameUnknown c f => exact Laws.WordInRow.frameUnknown c f
  | reservedOp110 x => exact Laws.WordInRow.reservedOp110 x
  | reservedOp111 x => exact Laws.WordInRow.reservedOp111 x

/-- A mask that keeps a field of the word compares that field. -/
theorem field_of_masked {start len : Nat} {w mask k : Word} (h : w &&& mask = k)
    (hkept : mask.extractLsb' start len = BitVec.allOnes len) : w.extractLsb' start len = k.extractLsb' start len := by
  rw [← h, BitVec.extractLsb'_and, hkept, BitVec.and_allOnes]

/-- A word that matches a command row is the word of an instruction of that row. -/
theorem exists_encode_of_row {w : Word} {i : Instr} (hformat : i.format = .cmd16) (h : w &&& i.rowMask = i.rowMatch) :
    ∃ j : Instr, j.format = .cmd16 ∧ encode j = w ∧ j.rowMask = i.rowMask ∧ j.rowMatch = i.rowMatch := by
  cases i with
  | timeCheck | reset | encode | validate => exact ⟨_, hformat, h.symm.trans BitVec.and_allOnes, rfl, rfl⟩
  | rxByte =>
    change w &&& 0xFF00#16 = 0x2000#16 at h
    refine ⟨.rxByte (cmdImm w), rfl, ?_, rfl, rfl⟩
    have hop : cmdOp w = 0b001#3 := field_of_masked h rfl
    have hv : cmdV w = 0#1 := field_of_masked h rfl
    rw [encode, ← hop, ← hv, commandWord_fields (field_of_masked h rfl)]
  | telemDecode =>
    change w &&& 0xEFFF#16 = 0xA000#16 at h
    refine ⟨.telemDecode (variantOfBit (cmdV w)), rfl, ?_, rfl, rfl⟩
    have hop : cmdOp w = 0b101#3 := field_of_masked h rfl
    have himm : cmdImm w = 0#8 := field_of_masked h rfl
    rw [encode, bit_variantOfBit, ← hop, ← himm, commandWord_fields (field_of_masked h rfl)]
  | reservedOp110 =>
    change w &&& 0xE000#16 = 0xC000#16 at h
    have hop : cmdOp w = 0b110#3 := field_of_masked h rfl
    exact ⟨.reservedOp110 (cmdFree w), rfl, by rw [encode, ← hop, cmd_op_free], rfl, rfl⟩
  | reservedOp111 =>
    change w &&& 0xE000#16 = 0xE000#16 at h
    have hop : cmdOp w = 0b111#3 := field_of_masked h rfl
    exact ⟨.reservedOp111 (cmdFree w), rfl, by rw [encode, ← hop, cmd_op_free], rfl, rfl⟩
  | frameDiscovery | frameRegRequest | frameAddrAssign | frameAddrConfirm | frameRemove | frameInfoRequest | frameInfoResponse
  | frameUnknown => cases hformat

/-- Settles O8: a decoded word is the word of what it decodes to, which lies in its row; a word of a row is encoded from it. -/
theorem commandWordsDecodeToTheRowTheyMatch : Obligations.CommandWordsDecodeToTheRowTheyMatch := by
  intro w i hformat
  constructor
  · rintro ⟨j, hj, hmask, hmatch⟩
    rw [← hmask, ← hmatch, ← encode_of_decodeCommand hj]
    exact encode_and_rowMask j
  · intro h
    obtain ⟨j, hjformat, rfl, hrow⟩ := exists_encode_of_row hformat h
    exact ⟨j, decodeCommand_encode hjformat, hrow⟩

/-! ### Refused words (30_encoding.md R82, 60_exceptions.md R216) -/

/-- Settles O9. -/
theorem reservedRowsAlwaysRefuse : Obligations.ReservedRowsAlwaysRefuse :=
  fun _ _ => ⟨rfl, rfl⟩

/-- RX_BYTE answers or faults; it refuses nothing. -/
theorem execRxByte_ne_refused (b : Byte) (s : State) (r : Refusal) : execRxByte b s ≠ .refused r := by
  cases hexp : s.rx.expired s.params s.now with
  | true =>
    rw [execRxByte_expired hexp]
    simp
  | false =>
    rw [execRxByte_live hexp]
    split <;> simp

/-- Exactly the reserved rows refuse; on a command row that is R82 of its word. -/
theorem exec_refused_iff {i : Instr} (hformat : i.format = .cmd16) (s : State) :
    (∃ r, exec i s = .refused r) ↔ RefusedWord (encode i) := by
  cases i with
  | reservedOp110 | reservedOp111 => exact iff_of_true ⟨_, rfl⟩ (by simp [RefusedWord, encode])
  | rxByte b => exact iff_of_false (fun ⟨r, h⟩ => execRxByte_ne_refused b s r h) (by simp [RefusedWord, encode])
  | timeCheck | reset | encode | validate | telemDecode => exact iff_of_false nofun (by simp [RefusedWord, encode])
  | frameDiscovery | frameRegRequest | frameAddrAssign | frameAddrConfirm | frameRemove | frameInfoRequest | frameInfoResponse
  | frameUnknown => cases hformat

/-- A presented word has no step exactly when R82 refuses it. -/
theorem step_refused_iff {s : State} {p : Ports} {rest : List Ports} (hs : s.script = p :: rest) :
    (∃ r, step s = .refused r) ↔ RefusedWord p.cmd := by
  rcases decodeCommand_cases p.cmd with ⟨i, hi, henc⟩ | ⟨hrefused, e, he⟩
  · rw [step_of_decode hs hi, exec_refused_iff (decodeCommand_format hi), henc]
  · exact iff_of_true ⟨_, step_of_decode_error hs he⟩ hrefused

theorem cmdOp_toNat (w : Word) : (cmdOp w).toNat = w.toNat / 8192 := by
  simp only [cmdOp, BitVec.extractLsb'_toNat, Nat.shiftRight_eq_div_pow]
  omega

theorem cmdV_toNat (w : Word) : (cmdV w).toNat = w.toNat / 4096 % 2 := by
  simp only [cmdV, BitVec.extractLsb'_toNat, Nat.shiftRight_eq_div_pow]

theorem cmdRes_toNat (w : Word) : (cmdRes w).toNat = w.toNat / 256 % 16 := by
  simp only [cmdRes, BitVec.extractLsb'_toNat, Nat.shiftRight_eq_div_pow]

theorem cmdImm_toNat (w : Word) : (cmdImm w).toNat = w.toNat % 256 := by
  simp only [cmdImm, BitVec.extractLsb'_toNat, Nat.shiftRight_zero]

/-- R82's items with the fields read as numbers. -/
theorem refusedWord_iff_toNat (w : Word) :
    RefusedWord w ↔
      w.toNat / 8192 = 6 ∨ w.toNat / 8192 = 7 ∨ w.toNat / 256 % 16 ≠ 0 ∨ (w.toNat / 8192 ≠ 5 ∧ w.toNat / 4096 % 2 ≠ 0) ∨
        (w.toNat / 8192 ≠ 1 ∧ w.toNat % 256 ≠ 0) := by
  simp only [RefusedWord, BitVec.toNat_eq, ne_eq, cmdOp_toNat, cmdV_toNat, cmdRes_toNat, cmdImm_toNat]
  rfl

/-- Settles O7. -/
theorem reservedAndIllegalWordsAreRefused : Obligations.ReservedAndIllegalWordsAreRefused :=
  fun _ p _ hs => (step_refused_iff hs).trans (refusedWord_iff_toNat p.cmd)

/-! ## ENCODE's lengths (30_encoding.md R71) -/

/-- `enc_out_len` holds nine more than any byte without wrapping. -/
theorem outLen_toNat (n : Byte) : (n.setWidth 9 + 9#9).toNat = n.toNat + 9 := by
  bv_omega

/-- Settles O33. -/
theorem encodedFrameIsNineBytesLongerThanItsData : Obligations.EncodedFrameIsNineBytesLongerThanItsData := by
  intro s t h
  cases h
  exact ⟨_, rfl, by rw [length_serialize, State.encOperand, length_portBytes], outLen_toNat _⟩

/-! ## VALIDATE of a serialized frame (40_codec.md R104, R107) -/

section serialized

variable {o t c f n : Byte} {d : List Byte}

theorem byteAt_serialize_origin : byteAt (serialize o t c f n d) 2 = o := rfl
theorem byteAt_serialize_target : byteAt (serialize o t c f n d) 3 = t := rfl
theorem byteAt_serialize_control : byteAt (serialize o t c f n d) 4 = c := rfl
theorem byteAt_serialize_function : byteAt (serialize o t c f n d) 5 = f := rfl

theorem serialize_sound (hn : n.toNat = d.length) : frameMalformed (serialize o t c f n d) = false := by
  rw [Bool.eq_false_iff, ne_eq, frameMalformed_iff, byteAt_serialize_zero, byteAt_serialize_one, byteAt_serialize_length,
    length_serialize, hn]
  simp

theorem slice_serialize_body (hn : n.toNat = d.length) :
    slice (serialize o t c f n d) 0 (7 + n.toNat) = frameHeader o t c f n ++ d := by
  rw [slice, serialize_eq, hn, List.drop_zero]
  exact List.take_left' (by simp)

theorem slice_serialize_data (hn : n.toNat = d.length) : slice (serialize o t c f n d) 7 (7 + n.toNat) = d := by
  rw [slice, serialize_eq, hn, List.append_assoc, List.drop_left' (length_frameHeader o t c f n)]
  exact List.take_left' (by omega)

/-- A word read at the end of one list is the first word of the list that follows it. -/
theorem be16_append_right (p q : List Byte) : be16 (p ++ q) p.length = be16 q 0 := by
  simp [be16, byteAt, List.getD_eq_getElem?_getD, List.getElem?_append_right]

/-- The trailer is the sum, high byte first. -/
theorem be16_serialize_trailer (hn : n.toNat = d.length) :
    be16 (serialize o t c f n d) (7 + n.toNat) = sum16 (frameHeader o t c f n ++ d) := by
  have hbody : (frameHeader o t c f n ++ d).length = 7 + n.toNat := by simp [hn]
  rw [serialize_eq, ← hbody, be16_append_right]
  exact hi8_append_lo8 _

/-- VALIDATE_fn takes a frame whose length byte counts its data, and gives every field back. -/
theorem validateFn_serialize (hn : n.toNat = d.length) :
    validateFn (serialize o t c f n d) =
      (.ok, some
        { origin := o, target := t, control := c, function := f, len := n, data := d
          crc := sum16 (frameHeader o t c f n ++ d), kind := classify c f }) := by
  have hsum : sum16 (slice (serialize o t c f n d) 0 (7 + n.toNat)) = be16 (serialize o t c f n d) (7 + n.toNat) := by
    rw [slice_serialize_body hn, be16_serialize_trailer hn]
  have hrecord : parseFrame (serialize o t c f n d) =
      { origin := o, target := t, control := c, function := f, len := n, data := d
        crc := sum16 (frameHeader o t c f n ++ d), kind := classify c f } := by
    simp only [parseFrame, byteAt_serialize_origin, byteAt_serialize_target, byteAt_serialize_control, byteAt_serialize_function,
      byteAt_serialize_length, slice_serialize_data hn, be16_serialize_trailer hn]
  rcases validateFn_cases (serialize o t c f n d) with ⟨hbad, -⟩ | ⟨-, -, heq⟩ | ⟨-, hne, -⟩
  · exact absurd (hbad.symm.trans (serialize_sound hn)) (by simp)
  · rw [heq, hrecord]
  · exact absurd hsum hne

end serialized

/-! ## A word placed for the next step (log 6, log 26) -/

theorem portsOfWord_of_ok {w : Word} {i : Instr} (h : decodeCommand w = .ok i) : portsOfWord w = { Ports.zero with cmd := w } := by
  simp only [portsOfWord, h]

theorem portsOfWord_of_error {w : Word} {e : WordError} (h : decodeCommand w = .error e) :
    portsOfWord w = (AsmLine.validate (serialize 0#8 0#8 (w.extractLsb' 8 8) (w.extractLsb' 0 8) 0#8 [])).ports := by
  simp only [portsOfWord, h]

theorem withFetchWord_script_toNat (s : State) (w : Word) : (s.withFetchWord 16 w.toNat).script = portsOfWord w :: s.script := by
  rw [State.withFetchWord_script, BitVec.ofNat_toNat, BitVec.setWidth_eq]

/-- A frame presented with its own length, one the port can count, is VALIDATE's operand. -/
theorem valOperand_validate (s : State) (rest : List Ports) {frame : List Byte} (hlen : frame.length < 512) :
    (s.sample (AsmLine.validate frame).ports rest).valOperand = frame := by
  have hcount : (BitVec.ofNat 9 frame.length).toNat = frame.length := by rw [BitVec.toNat_ofNat, Nat.mod_eq_of_lt hlen]
  simp only [State.valOperand, State.sample_ports, AsmLine.ports, hcount, portBytes_length_self]

/-- The step that presents a frame to VALIDATE answers what VALIDATE_fn says of it. -/
theorem step_validate {s : State} {frame : List Byte} {rest : List Ports} (hs : s.script = (AsmLine.validate frame).ports :: rest)
    (hlen : frame.length < 512) :
    step s = .next ((s.sample (AsmLine.validate frame).ports rest).withOut
      { Outputs.none with val := some { status := (validateFn frame).1, fr := (validateFn frame).2 } }) := by
  rw [step_of_decode hs (decodeCommand_encode (i := .validate) rfl)]
  show execValidate _ = _
  rw [execValidate, valOperand_validate s rest hlen]

/-- Settles O6: a command word is decoded again, any other word travels in a frame without data. -/
theorem placedWordIsRunByTheNextStep : Obligations.PlacedWordIsRunByTheNextStep := by
  intro s w
  have hscript := withFetchWord_script_toNat s w
  constructor
  · intro i hi
    rw [portsOfWord_of_ok hi] at hscript
    exact step_of_decode hscript hi
  · intro e he
    rw [portsOfWord_of_error he] at hscript
    have hstep := step_validate hscript (by simp)
    rw [validateFn_serialize rfl] at hstep
    exact ⟨_, _, hstep, rfl, rfl, rfl, rfl, rfl, rfl, rfl⟩

/-! ## The FRAME rows (30_encoding.md R90 to R98) -/

/-- A FRAME.UNKNOWN row answers what the classifier says of its pair (log 23). -/
theorem exec_frameUnknown (c f : Byte) (s : State) :
    exec (.frameUnknown c f) s = .next (s.withOut { Outputs.none with kind := some (classify c f) }) :=
  rfl

/-- Settles O45: only FRAME.UNKNOWN asks the classifier. -/
theorem frameRowsAnswerTheirKind : Obligations.FrameRowsAnswerTheirKind := by
  refine fun s c f => ⟨rfl, rfl, rfl, rfl, rfl, rfl, rfl, fun hwf => ?_⟩
  rw [exec_frameUnknown, classify_of_wellFormed hwf]
  rfl

/-- Settles O47: of the classifier's eight answers three have a reply kind, and there the pair with bit 7 set is a pair of the
table. -/
theorem replyKindSetsBit7OfTheFunction : Obligations.ReplyKindSetsBit7OfTheFunction := by
  intro c f k h
  rcases classify_cases c f with ⟨rfl, rfl, hkind⟩ | ⟨-, -, hkind⟩ | ⟨rfl, rfl, hkind⟩ | ⟨-, -, hkind⟩ | ⟨-, -, hkind⟩ |
    ⟨rfl, rfl, hkind⟩ | ⟨-, -, hkind⟩ | ⟨-, hkind⟩
  all_goals
    rw [hkind] at h
    cases h
  case inl => exact (rfl : classify 0x00#8 0x80#8 = .regRequest)
  case inr.inr.inl => exact (rfl : classify 0x00#8 0x81#8 = .addrConfirm)
  case inr.inr.inr.inr.inr.inl => exact (rfl : classify 0x01#8 0x81#8 = .infoResponse)

end Sys2Proof.Machine

namespace Sys2Proof.Machine

/-! ## The checksum (40_codec.md R100, R101) -/

/-- Settles O30: the model's sum is reduced modulo `2^16`, and the largest frame wraps. -/
theorem checksumIsTheByteSumModulo65536 : Obligations.ChecksumIsTheByteSumModulo65536 := by
  have hlargest : (([0xAA#8, 0x55#8] ++ List.replicate 260 0xFF#8).map BitVec.toNat).sum = 66555 := by
    rw [List.map_append, List.map_replicate, List.sum_append, List.sum_replicate]
    rfl
  exact ⟨sum16_toNat, hlargest, (congrArg (BitVec.ofNat 16) hlargest).trans rfl⟩

/-- Settles O31. -/
theorem markerContributes255ToTheChecksum : Obligations.MarkerContributes255ToTheChecksum :=
  fun p => sum16_append [0xAA#8, 0x55#8] p

/-! ## ENCODE (40_codec.md R102) -/

/-- ENCODE writes the serialized operands and the length in nine bits. -/
theorem exec_encode (s : State) :
    exec .encode s = .next (s.withOut { Outputs.none with
      enc := some
        { out := serialize s.ports.encOrigin s.ports.encTarget s.ports.encControl s.ports.encFunction s.ports.encLen s.encOperand
          outLen := s.ports.encLen.setWidth 9 + 9#9 } }) :=
  rfl

/-- Settles O32: of the output only the length is not literally the model's. -/
theorem encodeSerializesTheFrame : Obligations.EncodeSerializesTheFrame := by
  intro s
  have hlen : s.ports.encLen.setWidth 9 + 9#9 = BitVec.ofNat 9 (s.ports.encLen.toNat + 9) := by bv_omega
  rw [exec_encode, hlen]
  rfl

/-! ## The bytes VALIDATE reads (40_codec.md R104) -/

/-- A part of a vector, byte by byte. -/
theorem slice_eq_map_range {p : List Byte} {i n : Nat} (h : i + n ≤ p.length) :
    slice p i (i + n) = (List.range n).map fun k => byteAt p (i + k) := by
  refine List.ext_getElem (by rw [length_slice, List.length_map, List.length_range]; omega) fun k hk _ => ?_
  have hkn : k < n := by rw [length_slice] at hk; omega
  rw [← byteAt_eq_getElem hk, byteAt_slice p (by omega), List.getElem_map, List.getElem_range]

/-- The checksum of a vector's first bytes. -/
theorem sum16_slice_zero {p : List Byte} {n : Nat} (h : n ≤ p.length) :
    sum16 (slice p 0 n) = BitVec.ofNat 16 ((List.range n).map fun i => (byteAt p i).toNat).sum := by
  have hslice := slice_eq_map_range (p := p) (i := 0) (n := n) (by omega)
  simp only [Nat.zero_add] at hslice
  rw [hslice, sum16, List.map_map]
  rfl

theorem be16_seven_add (p : List Byte) (n : Nat) : be16 p (7 + n) = byteAt p (7 + n) ++ byteAt p (8 + n) := by
  rw [be16, show 7 + n + 1 = 8 + n by omega]

/-- The structural checks pass when the marker is in place and the length byte counts the data. -/
theorem frameMalformed_eq_false_iff {r : List Byte} :
    frameMalformed r = false ↔ byteAt r 0 = 0xAA#8 ∧ byteAt r 1 = 0x55#8 ∧ r.length = (byteAt r 6).toNat + 9 := by
  simp only [Bool.eq_false_iff, ne_eq, frameMalformed_iff, not_or, not_not]
  exact ⟨fun ⟨_, h⟩ => h, fun ⟨h0, h1, hlen⟩ => ⟨by omega, h0, h1, hlen⟩⟩

theorem validateFn_of_malformed {r : List Byte} (h : frameMalformed r = true) : validateFn r = (.frameMalformed, none) := by
  rw [validateFn, if_pos h]

/-- All VALIDATE_fn can answer to a structurally sound vector. -/
theorem validateFn_cases_of_sound {r : List Byte} (h : frameMalformed r = false) :
    (sum16 (slice r 0 (7 + (byteAt r 6).toNat)) = be16 r (7 + (byteAt r 6).toNat) ∧
      validateFn r = (.ok, some (parseFrame r))) ∨
    (sum16 (slice r 0 (7 + (byteAt r 6).toNat)) ≠ be16 r (7 + (byteAt r 6).toNat) ∧
      validateFn r = (.checksumMismatch, some (parseFrame r))) := by
  rcases validateFn_cases r with ⟨hbad, -⟩ | ⟨-, hcase⟩ | ⟨-, hcase⟩
  · cases h.symm.trans hbad
  · exact .inl hcase
  · exact .inr hcase

/-- VALIDATE answers what VALIDATE_fn says of its operand. -/
theorem exec_validate {u : State} {r : List Byte} (h : u.valOperand = r) :
    exec .validate u = .next { u with
      out := { Outputs.none with val := some { status := (validateFn r).1, fr := (validateFn r).2 } } } := by
  subst h
  rfl

/-- A vector presented with its own length is VALIDATE's operand. -/
theorem valOperand_eq_of_length {u : State} {r : List Byte} (hframe : u.ports.valFrame = r)
    (hlen : u.ports.valLen.toNat = r.length) : u.valOperand = r := by
  rw [State.valOperand, hframe, hlen, portBytes_length_self]

/-- VALIDATE_fn of a structurally sound vector, byte by byte. -/
theorem validateFn_of_sound {p : List Byte} {n : Nat} (hsound : frameMalformed p = false) (hn : (byteAt p 6).toNat = n)
    (hlen : p.length = n + 9) :
    validateFn p =
      (if BitVec.ofNat 16 ((List.range (7 + n)).map fun i => (byteAt p i).toNat).sum = byteAt p (7 + n) ++ byteAt p (8 + n) then .ok
        else .checksumMismatch,
       some
        { origin := byteAt p 2, target := byteAt p 3, control := byteAt p 4, function := byteAt p 5, len := byteAt p 6
          data := (List.range n).map fun i => byteAt p (7 + i)
          crc := byteAt p (7 + n) ++ byteAt p (8 + n), kind := classify (byteAt p 4) (byteAt p 5) }) := by
  have hiff : sum16 (slice p 0 (7 + n)) = be16 p (7 + n) ↔
      BitVec.ofNat 16 ((List.range (7 + n)).map fun i => (byteAt p i).toNat).sum = byteAt p (7 + n) ++ byteAt p (8 + n) := by
    rw [sum16_slice_zero (by omega), be16_seven_add]
  rcases validateFn_cases_of_sound hsound with ⟨hsum, heq⟩ | ⟨hsum, heq⟩ <;> rw [hn] at hsum
  · rw [heq, parseFrame, hn, slice_eq_map_range (by omega), be16_seven_add, if_pos (hiff.mp hsum)]
  · rw [heq, parseFrame, hn, slice_eq_map_range (by omega), be16_seven_add, if_neg (mt hiff.mpr hsum)]

/-- Settles O34: the structural checks are the statement's, and a sound vector is answered from its bytes. -/
theorem validateChecksAndParsesTheFrame : Obligations.ValidateChecksAndParsesTheFrame := by
  intro s m r n
  have hm : s.valOperand.length = m := length_portBytes _ _
  have hmalformed : frameMalformed s.valOperand = true ↔ m < 9 ∨ r 0 ≠ 0xAA#8 ∨ r 1 ≠ 0x55#8 ∨ m ≠ n + 9 := by
    rw [frameMalformed_iff, hm]
    rfl
  rw [exec_validate rfl]
  by_cases hbad : m < 9 ∨ r 0 ≠ 0xAA#8 ∨ r 1 ≠ 0x55#8 ∨ m ≠ n + 9
  case pos => rw [validateFn_of_malformed (hmalformed.mpr hbad), if_pos hbad]
  case neg =>
    have hsound : frameMalformed s.valOperand = false := Bool.eq_false_iff.mpr (mt hmalformed.mp hbad)
    rw [validateFn_of_sound hsound rfl (by omega : s.valOperand.length = n + 9), if_neg hbad]
    rfl

/-! ## What ENCODE wrote, validated (40_codec.md R107) -/

/-- Settles O35: the data operand has the length ENCODE declares, so VALIDATE_fn takes the serialized frame. -/
theorem validateOfEncodeRecoversTheFrame : Obligations.ValidateOfEncodeRecoversTheFrame := by
  refine fun s => ⟨_, exec_encode s, fun u hframe hlen => ?_⟩
  have hn : s.ports.encLen.toNat = s.encOperand.length := (length_portBytes _ _).symm
  have hcount : u.ports.valLen.toNat = s.encOperand.length + 9 := by rw [hlen, outLen_toNat, hn]
  rw [exec_validate (valOperand_eq_of_length hframe (by rw [hcount, length_serialize])), validateFn_serialize hn,
    Nat.add_comm _ 7, be16_serialize_trailer hn]
  rfl

/-! ## What the synchronizer completes, validated (40_codec.md R108) -/

/-- One byte short of the frame's end, R28 says that marker and length byte stand in the buffer and that the length byte counts the
bytes held with the last one. -/
theorem Receive.Inv.completed_sound {p : Params} {r : Receive} (h : r.Inv p) (hwf : r.buf.wf p.bufCap = true)
    (hphase : r.phase = .readBody) (hrem : r.rem = 1#9) (b : Byte) :
    frameMalformed ((r.stored b).buf.prefixBytes (r.cur.toNat + 1)) = false := by
  obtain ⟨-, -, hbody, -⟩ := h
  obtain ⟨hcur, -, -, -, -, h0, h1, -, hsum⟩ := hbody hphase
  have hrem1 : r.rem.toNat = 1 := by rw [hrem]; rfl
  have hheld : ∀ i < 7, byteAt ((r.stored b).buf.prefixBytes (r.cur.toNat + 1)) i = r.buf.read i := by
    intro i hi
    rw [Memory.byteAt_prefixBytes _ (by omega), Receive.read_stored hwf, if_neg (by omega)]
  refine frameMalformed_eq_false_iff.mpr ⟨(hheld 0 (by omega)).trans h0, (hheld 1 (by omega)).trans h1, ?_⟩
  rw [Memory.length_prefixBytes, hheld 6 (by omega)]
  omega

/-- Settles O24. -/
theorem completedFrameIsStructurallySound : Obligations.CompletedFrameIsStructurallySound := by
  intro s u b hinv hphase hrem hframe hlen
  obtain ⟨-, hrx, hwf, -⟩ := hinv
  have hcur : s.rx.cur.toNat < 511 := by
    obtain ⟨-, -, hbody, -⟩ := hrx
    obtain ⟨-, hhigh, -⟩ := hbody hphase
    omega
  have hoperand : u.valOperand = (s.rx.stored b).buf.prefixBytes (s.rx.cur.toNat + 1) :=
    valOperand_eq_of_length hframe (by rw [hlen, Memory.length_prefixBytes]; exact Receive.stored_cur_toNat (b := b) hcur)
  rcases validateFn_cases_of_sound (hrx.completed_sound hwf hphase hrem b) with ⟨-, heq⟩ | ⟨-, heq⟩
  · exact ⟨_, _, by rw [exec_validate hoperand, heq], .inl rfl⟩
  · exact ⟨_, _, by rw [exec_validate hoperand, heq], .inr rfl⟩

/-! ## One changed byte of a frame (40_codec.md R106) -/

theorem byteAt_set {p : List Byte} {i : Nat} (h : i < p.length) (b : Byte) (j : Nat) :
    byteAt (p.set i b) j = if j = i then b else byteAt p j := by
  by_cases hj : j = i
  · subst hj
    simp [byteAt, h]
  · simp [byteAt, List.getD_eq_getElem?_getD, hj, Ne.symm hj]

theorem sum16_cons (x : Byte) (p : List Byte) : sum16 (x :: p) = x.setWidth 16 + sum16 p := by
  simp [sum16, BitVec.ofNat_add]

/-- A changed byte moves the checksum by the difference of the two bytes. -/
theorem sum16_set {p : List Byte} {i : Nat} (h : i < p.length) (b : Byte) :
    sum16 (p.set i b) + (byteAt p i).setWidth 16 = sum16 p + b.setWidth 16 := by
  induction p generalizing i with
  | nil => simp at h
  | cons x p ih =>
    cases i with
    | zero =>
      rw [List.set_cons_zero, sum16_cons, sum16_cons, show byteAt (x :: p) 0 = x from rfl]
      ac_rfl
    | succ i =>
      have hrest := ih (Nat.lt_of_succ_lt_succ h)
      rw [List.set_cons_succ, sum16_cons, sum16_cons, show byteAt (x :: p) (i + 1) = byteAt p i from rfl, add_assoc, hrest,
        ← add_assoc]

/-- A changed byte changes the checksum: the difference of two bytes is less than `2^16`. -/
theorem sum16_set_ne {p : List Byte} {i : Nat} (h : i < p.length) {b : Byte} (hb : b ≠ byteAt p i) :
    sum16 (p.set i b) ≠ sum16 p := by
  intro heq
  have hmoved := sum16_set h b
  rw [heq] at hmoved
  have hsame : (byteAt p i).setWidth 16 = b.setWidth 16 := add_left_cancel hmoved
  exact hb (by bv_omega)

/-- Equal words have equal bytes. -/
theorem bytes_of_word_eq {a b c d : Byte} (h : (a ++ b : Word) = c ++ d) : a = c ∧ b = d := by
  constructor
  · rw [← high_byte_append a b, h, high_byte_append]
  · rw [← low_byte_append a b, h, low_byte_append]

/-- A changed byte changes the word read over it. -/
theorem be16_set_ne {p : List Byte} {i o : Nat} (h : i < p.length) {b : Byte} (hb : b ≠ byteAt p i) (hi : i = o ∨ i = o + 1) :
    be16 (p.set i b) o ≠ be16 p o := by
  intro heq
  obtain ⟨hhigh, hlow⟩ := bytes_of_word_eq heq
  rw [byteAt_set h] at hhigh hlow
  rcases hi with rfl | rfl
  · exact hb (by simpa using hhigh)
  · exact hb (by simpa using hlow)

/-- The sum over the first `k` bytes and the word that follows them no longer match once one byte of either has changed. -/
theorem checksum_ne_of_set {p : List Byte} {i k : Nat} (hsum : sum16 (slice p 0 k) = be16 p k) (hk : k + 2 = p.length)
    (hi : i < p.length) {b : Byte} (hb : b ≠ byteAt p i) : sum16 (slice (p.set i b) 0 k) ≠ be16 (p.set i b) k := by
  have hslice : slice (p.set i b) 0 k = (slice p 0 k).set i b := by simp [slice, List.take_set]
  rw [hslice]
  by_cases hik : i < k
  case pos =>
    have htrailer : be16 (p.set i b) k = be16 p k := by
      rw [be16, byteAt_set hi, byteAt_set hi, if_neg (by omega), if_neg (by omega), be16]
    have hbyte : byteAt (slice p 0 k) i = byteAt p i := by rw [byteAt_slice p (by omega), Nat.zero_add]
    rw [htrailer, ← hsum]
    exact sum16_set_ne (by rw [length_slice]; omega) (hbyte ▸ hb)
  case neg =>
    rw [List.set_eq_of_length_le (by rw [length_slice]; omega), hsum]
    exact (be16_set_ne hi hb (by omega)).symm

/-- A frame that VALIDATE_fn takes is structurally sound and its sum matches. -/
theorem sound_of_validateFn_ok {p : List Byte} (h : (validateFn p).1 = .ok) :
    frameMalformed p = false ∧ sum16 (slice p 0 (7 + (byteAt p 6).toNat)) = be16 p (7 + (byteAt p 6).toNat) := by
  rcases validateFn_cases p with ⟨-, heq⟩ | ⟨hsound, hsum, -⟩ | ⟨-, -, heq⟩
  · simp [heq] at h
  · exact ⟨hsound, hsum⟩
  · simp [heq] at h

/-- The structural checks fail exactly for a change in the marker or the length byte. -/
theorem frameMalformed_set {p : List Byte} {i : Nat} (hsound : frameMalformed p = false) (hi : i < p.length) {b : Byte}
    (hb : b ≠ byteAt p i) : frameMalformed (p.set i b) = decide (i = 0 ∨ i = 1 ∨ i = 6) := by
  obtain ⟨h0, h1, hlen⟩ := frameMalformed_eq_false_iff.mp hsound
  by_cases hplace : i = 0 ∨ i = 1 ∨ i = 6
  case pos =>
    rw [decide_eq_true hplace, ← Bool.not_eq_false]
    intro hsound'
    obtain ⟨h0', h1', hlen'⟩ := frameMalformed_eq_false_iff.mp hsound'
    rw [byteAt_set hi] at h0' h1' hlen'
    rw [List.length_set] at hlen'
    rcases hplace with rfl | rfl | rfl
    · exact hb (h0'.trans h0.symm)
    · exact hb (h1'.trans h1.symm)
    · rw [if_pos rfl] at hlen'
      exact hb (BitVec.eq_of_toNat_eq (by omega))
  case neg =>
    rw [decide_eq_false hplace, frameMalformed_eq_false_iff, byteAt_set hi, byteAt_set hi, byteAt_set hi, if_neg (by omega),
      if_neg (by omega), if_neg (by omega), List.length_set]
    exact ⟨h0, h1, hlen⟩

/-- One changed byte of a frame that VALIDATE_fn takes is detected: in the marker and the length byte by the structural checks,
anywhere else by the checksum. -/
theorem validateFn_set {p : List Byte} {i : Nat} (hok : (validateFn p).1 = .ok) (hi : i < p.length) {b : Byte}
    (hb : b ≠ byteAt p i) :
    validateFn (p.set i b) =
      if i = 0 ∨ i = 1 ∨ i = 6 then (.frameMalformed, none) else (.checksumMismatch, some (parseFrame (p.set i b))) := by
  obtain ⟨hsound, hsum⟩ := sound_of_validateFn_ok hok
  obtain ⟨-, -, hlen⟩ := frameMalformed_eq_false_iff.mp hsound
  have hbad := frameMalformed_set hsound hi hb
  by_cases hplace : i = 0 ∨ i = 1 ∨ i = 6
  case pos => rw [if_pos hplace, validateFn_of_malformed (hbad.trans (decide_eq_true hplace))]
  case neg =>
    rw [decide_eq_false hplace] at hbad
    have hne := checksum_ne_of_set hsum (by omega) hi hb
    have hlength : byteAt (p.set i b) 6 = byteAt p 6 := by rw [byteAt_set hi, if_neg (by omega)]
    rw [if_neg hplace]
    rcases validateFn_cases_of_sound hbad with ⟨hsum', -⟩ | ⟨-, heq⟩
    · rw [hlength] at hsum'
      exact absurd hsum' hne
    · exact heq

/-- A flipped bit changes its byte. -/
theorem xor_bit_ne (x : Byte) {k : Nat} (hk : k < 8) : x ^^^ (1#8 <<< k) ≠ x := by
  intro h
  have hzero : 1#8 <<< k = 0#8 := (BitVec.xor_right_inj x).mp (h.trans BitVec.xor_zero.symm)
  interval_cases k <;> cases hzero

/-- Settles O36: the encoded frame is one VALIDATE_fn takes, and the flipped bit changes one byte of it. -/
theorem singleBitFlipIsAlwaysDetected : Obligations.SingleBitFlipIsAlwaysDetected := by
  intro u o t c f d i k hd hi hk hframe hcount
  have hn : (BitVec.ofNat 8 d.length).toNat = d.length := by rw [BitVec.toNat_ofNat, Nat.mod_eq_of_lt (by omega)]
  have hok : (validateFn (serialize o t c f (BitVec.ofNat 8 d.length) d)).1 = .ok := by rw [validateFn_serialize hn]
  have hdetected := validateFn_set hok (by rwa [length_serialize]) (xor_bit_ne _ hk)
  refine ⟨_, exec_validate (valOperand_eq_of_length hframe (by rw [List.length_set, length_serialize, hcount])), ?_⟩
  rw [hdetected]
  split <;> simp

/-! ## The classifier and the FRAME rows (40_codec.md R105) -/

/-- Settles O44: the seven recognised pairs one by one; a pair outside the list takes no branch of the table with a kind. -/
theorem classifyIsTheControlFunctionTable : Obligations.ClassifyIsTheControlFunctionTable := by
  intro c f
  rcases classify_cases c f with hpair | hpair | hpair | hpair | hpair | hpair | hpair | ⟨hnew, hkind⟩
  iterate 7
    · obtain ⟨rfl, rfl, hkind⟩ := hpair
      rw [hkind]
      rfl
  rw [hkind]
  by_cases h0 : c = 0x00#8
  · subst h0
    obtain ⟨h00, h80, h01, h81, h02⟩ : f ≠ 0x00#8 ∧ f ≠ 0x80#8 ∧ f ≠ 0x01#8 ∧ f ≠ 0x81#8 ∧ f ≠ 0x02#8 := by
      simpa [recognisedPairs] using hnew
    rw [if_pos rfl, if_neg h00, if_neg h80, if_neg h01, if_neg h81, if_neg h02, FrameKind.code]
  by_cases h1 : c = 0x01#8
  · subst h1
    obtain ⟨h01, h81⟩ : f ≠ 0x01#8 ∧ f ≠ 0x81#8 := by simpa [recognisedPairs] using hnew
    rw [if_neg h0, if_pos rfl, if_neg h01, if_neg h81, FrameKind.code]
  · rw [if_neg h0, if_neg h1, FrameKind.code]

/-- A FRAME row's answer is the classifier's for the pair that selects it. -/
theorem exec_decodeFrame (s : State) (c f : Byte) :
    exec (decodeFrame c f) s = .next (s.withOut { Outputs.none with kind := some (classify c f) }) := by
  rcases classify_cases c f with hpair | hpair | hpair | hpair | hpair | hpair | hpair | ⟨-, hkind⟩
  iterate 7
    · obtain ⟨rfl, rfl, -⟩ := hpair
      rfl
  rw [decodeFrame, hkind, exec_frameUnknown, hkind]

/-- Settles O46. -/
theorem selectedFrameRowAgreesWithClassify : Obligations.SelectedFrameRowAgreesWithClassify := by
  intro s c f
  obtain ⟨hencode, -, -⟩ := decodeFrame_row c f
  exact ⟨exec_decodeFrame s c f, hencode⟩

end Sys2Proof.Machine

namespace Sys2Proof.Machine

/-! ## The synchronizer's operations, phase by phase (41_synchronizer.md R132 to R139)

RX_BYTE either abandons a late frame or gives the byte to the phase's procedure, whose answer is `accept` wherever no store fails.
The statements about one byte are that equation with `accept` evaluated in the phase. -/

/-! ### RESET and TIME_CHECK -/

/-- Settles O2. -/
theorem resetDropsTheFrameSilently : Obligations.ResetDropsTheFrameSilently :=
  fun s => exec_reset s

theorem exec_timeCheck (s : State) : exec .timeCheck s = execTimeCheck s := rfl

/-- Settles O13: the frame reset and the event appear exactly when the window has closed. -/
theorem timeCheckTestsTheWindow : Obligations.TimeCheckTestsTheWindow := by
  intro s
  rw [exec_timeCheck, ← expired_iff]
  rcases execTimeCheck_cases s with ⟨hlate, heq⟩ | ⟨hlive, heq⟩
  · exact ⟨fun _ => heq, fun hnot => absurd hlate hnot⟩
  · exact ⟨fun hlate => absurd (hlive.symm.trans hlate) Bool.false_ne_true, fun _ => heq⟩

/-! ### The equations of RX_BYTE -/

theorem exec_rxByte (b : Byte) (s : State) : exec (.rxByte b) s = execRxByte b s := rfl

/-- A late byte (R137). -/
theorem exec_rxByte_of_timedOut {s : State} (hlate : s.TimedOut) (b : Byte) :
    exec (.rxByte b) s =
      .next (s.finishRx { s.rx.frameReset with prev := b, tLast := s.now } { frame := none, diag := some .rxTimeout }) :=
  (exec_rxByte b s).trans (execRxByte_expired ((expired_iff s).mpr hlate))

/-- A byte in time is accepted where nothing stops it, inside the invariant of R28 or outside. -/
theorem exec_rxByte_of_not_timedOut {s : State} {b : Byte} (hlive : ¬s.TimedOut) (hno : ∀ f, ¬s.rx.StopsOn s.params b f) :
    exec (.rxByte b) s =
      .next (s.finishRx ((s.rx.stamp s.now).accept s.params b).1 ((s.rx.stamp s.now).accept s.params b).2) := by
  have hexp : s.rx.expired s.params s.now = false := Bool.eq_false_iff.mpr (mt (expired_iff s).mp hlive)
  have haccept : onByte s.params b { s.rx with tLast := s.now } = .ok ((s.rx.stamp s.now).accept s.params b) :=
    onByte_eq_accept hno
  rw [exec_rxByte, execRxByte_live hexp, haccept]

/-- All an RX_BYTE that answers can do. -/
theorem exec_rxByte_cases {b : Byte} {s t : State} (h : exec (.rxByte b) s = .next t) :
    (s.TimedOut ∧
      t = s.finishRx { s.rx.frameReset with prev := b, tLast := s.now } { frame := none, diag := some .rxTimeout }) ∨
    (¬s.TimedOut ∧
      t = s.finishRx ((s.rx.stamp s.now).accept s.params b).1 ((s.rx.stamp s.now).accept s.params b).2) := by
  by_cases hlate : s.TimedOut
  case pos => exact .inl ⟨hlate, Host.Outcome.next.inj (h.symm.trans (exec_rxByte_of_timedOut hlate b))⟩
  case neg =>
    have hno : ∀ f, ¬s.rx.StopsOn s.params b f := by
      intro f hstop
      have hfault : exec (.rxByte b) s = .fault f := execRxByte_fault_iff.mpr ⟨hlate, hstop⟩
      cases h.symm.trans hfault
    exact .inr ⟨hlate, Host.Outcome.next.inj (h.symm.trans (exec_rxByte_of_not_timedOut hlate hno))⟩

/-- Inside a frame only a full buffer stops a byte (log 9). -/
theorem Receive.not_stopsOn_of_inFrame {p : Params} {r : Receive} (hphase : r.phase = .readHeader ∨ r.phase = .readBody)
    (hcap : r.cur.toNat < p.bufCap) (b : Byte) (f : Fault) : ¬r.StopsOn p b f := by
  rintro (⟨hready, -⟩ | ⟨-, hfull, -⟩ | ⟨hawait, -⟩)
  · simp [hready] at hphase
  · omega
  · simp [hawait] at hphase

/-- In AWAIT_START only a marker without room stops a byte (log 9). -/
theorem Receive.not_stopsOn_of_awaitStart {p : Params} {b : Byte} {r : Receive} (hphase : r.phase = .awaitStart)
    (hroom : r.prev = 0xAA#8 → b = 0x55#8 → 2 ≤ p.bufCap) (f : Fault) : ¬r.StopsOn p b f := by
  rintro (⟨hready, -⟩ | ⟨hframe, -⟩ | ⟨-, hprev, hb, hfull, -⟩)
  · simp [hphase] at hready
  · simp [hphase] at hframe
  · exact absurd (hroom hprev hb) (Nat.not_le.mpr hfull)

/-! ### One byte in each phase -/

/-- Settles O19. -/
theorem lateByteAbandonsTheFrameFirst : Obligations.LateByteAbandonsTheFrameFirst :=
  fun _ b hlate => exec_rxByte_of_timedOut hlate b

/-- Settles O14: a byte in AWAIT_START is never late. -/
theorem rxByteHuntsForTheMarker : Obligations.RxByteHuntsForTheMarker := by
  intro s b hphase
  have hlive : ¬s.TimedOut := fun ⟨hlate, _⟩ => hlate hphase
  constructor
  · rintro hprev rfl hroom
    rw [exec_rxByte_of_not_timedOut hlive (Receive.not_stopsOn_of_awaitStart hphase fun _ _ => hroom),
      Receive.accept_marker (r := s.rx.stamp s.now) hphase hprev]
    rfl
  · intro hno
    rw [exec_rxByte_of_not_timedOut hlive (Receive.not_stopsOn_of_awaitStart hphase fun hprev hb => absurd ⟨hprev, hb⟩ hno),
      Receive.accept_hunt (r := s.rx.stamp s.now) hphase hno]
    rfl

/-- Settles O15. -/
theorem rxByteStoresAHeaderByte : Obligations.RxByteStoresAHeaderByte := by
  intro s b hlive hphase hcap hmore
  rw [exec_rxByte_of_not_timedOut hlive (Receive.not_stopsOn_of_inFrame (.inl hphase) hcap b),
    Receive.accept_header (r := s.rx.stamp s.now) hphase, if_neg (show (s.rx.stamp s.now).cur ≠ 6#9 from hmore)]
  rfl

/-- Settles O16: the length read at the end of the header is the byte just stored. -/
theorem rxByteCompletesTheHeader : Obligations.RxByteCompletesTheHeader := by
  intro s b hlive hphase hcur hcap hwf
  have hfree : s.rx.cur.toNat < s.params.bufCap := by simpa [hcur] using hcap
  have hexec := exec_rxByte_of_not_timedOut hlive (Receive.not_stopsOn_of_inFrame (.inl hphase) hfree b)
  have hstored : (s.rx.stamp s.now).stored b =
      { s.rx with buf := s.rx.buf.write 6 b, cur := 7#9, tLast := s.now } := by
    simp [Receive.stored, Receive.stamp, hcur]
  have hlen : (s.rx.buf.write 6 b).read 6 = b := by rw [Memory.read_write _ _ _ hwf, if_pos rfl]
  rw [Receive.accept_header (r := s.rx.stamp s.now) hphase, if_pos (show (s.rx.stamp s.now).cur = 6#9 from hcur), hstored] at hexec
  rw [hexec]
  rcases headerComplete_cases s.params { s.rx with buf := s.rx.buf.write 6 b, cur := 7#9, tLast := s.now } with
    ⟨hover, heq⟩ | ⟨hfits, heq⟩ <;> rw [heq]
  · rw [hlen] at hover
    exact ⟨fun _ => rfl, fun hle => absurd hover (Nat.not_lt.mpr hle)⟩
  · rw [hlen] at hfits
    refine ⟨fun hlt => absurd hlt (Nat.not_lt.mpr hfits), fun _ => ?_⟩
    have hrem : bytesRemaining b = BitVec.ofNat 9 (b.toNat + 2) := by
      rw [← bytesRemaining_toNat, BitVec.ofNat_toNat, BitVec.setWidth_eq]
    rw [hlen, hrem]
    rfl

/-- Settles O17. -/
theorem rxByteStoresABodyByte : Obligations.RxByteStoresABodyByte := by
  intro s b hlive hphase hcap hmore
  rw [exec_rxByte_of_not_timedOut hlive (Receive.not_stopsOn_of_inFrame (.inr hphase) hcap b),
    Receive.accept_body (r := s.rx.stamp s.now) hphase, if_neg (show (s.rx.stamp s.now).rem ≠ 1#9 from hmore)]
  rfl

/-! ### The last byte of a frame (R136, 10_state.md R35) -/

/-- The sum of the frame held in the buffer, of `n` data bytes, is its trailer; `validateFn_prefixBytes` ties it to the model. -/
abbrev Memory.SumMatches (m : Memory) (n : Nat) : Prop :=
  BitVec.ofNat 16 ((List.range (7 + n)).map fun i => (m.read i).toNat).sum = m.read (7 + n) ++ m.read (8 + n)

/-- The record of the frame held in the buffer, of `n` data bytes; `validateFn_prefixBytes` ties it to the model. -/
def Memory.frameHeld (m : Memory) (n : Nat) : FrameRecord where
  origin := m.read 2
  target := m.read 3
  control := m.read 4
  function := m.read 5
  len := m.read 6
  data := (List.range n).map fun i => m.read (7 + i)
  crc := m.read (7 + n) ++ m.read (8 + n)
  kind := classify (m.read 4) (m.read 5)

/-- VALIDATE_fn of the buffer's first bytes, where they are structurally sound, in the bytes of the buffer. -/
theorem validateFn_prefixBytes {m : Memory} {n : Nat} (hsound : frameMalformed (m.prefixBytes (n + 9)) = false)
    (hn : (m.read 6).toNat = n) :
    validateFn (m.prefixBytes (n + 9)) = (if m.SumMatches n then .ok else .checksumMismatch, some (m.frameHeld n)) := by
  have hbyte : ∀ i < n + 9, byteAt (m.prefixBytes (n + 9)) i = m.read i := fun i hi => Memory.byteAt_prefixBytes m hi
  have hsum : ((List.range (7 + n)).map fun i => (byteAt (m.prefixBytes (n + 9)) i).toNat) =
      (List.range (7 + n)).map fun i => (m.read i).toNat :=
    List.map_congr_left fun i hi => by rw [hbyte i (by rw [List.mem_range] at hi; omega)]
  have hdata : ((List.range n).map fun i => byteAt (m.prefixBytes (n + 9)) (7 + i)) =
      (List.range n).map fun i => m.read (7 + i) :=
    List.map_congr_left fun i hi => hbyte (7 + i) (by rw [List.mem_range] at hi; omega)
  rw [validateFn_of_sound hsound (by rw [hbyte 6 (by omega), hn]) (Memory.length_prefixBytes m _), hsum, hdata,
    hbyte 2 (by omega), hbyte 3 (by omega), hbyte 4 (by omega), hbyte 5 (by omega), hbyte 6 (by omega),
    hbyte (7 + n) (by omega), hbyte (8 + n) (by omega)]
  rfl

/-- A structurally sound frame is emitted exactly when its sum matches. -/
theorem complete_of_sound {r : Receive} {n : Nat} (hcur : r.cur.toNat = n + 9)
    (hsound : frameMalformed (r.buf.prefixBytes (n + 9)) = false) (hn : (r.buf.read 6).toNat = n) :
    complete r =
      (r.frameReset, { frame := if r.buf.SumMatches n then some (r.buf.frameHeld n) else none, diag := none }) := by
  rw [complete_eq, hcur, validateFn_prefixBytes hsound hn]
  by_cases hsum : r.buf.SumMatches n <;> simp [hsum]

/-- The last body byte ends the frame in its own step: `FRAME_READY` is left again by `complete`. -/
theorem Receive.accept_last {p : Params} {r : Receive} (hphase : r.phase = .readBody) (hrem : r.rem = 1#9) (b : Byte) :
    r.accept p b = complete { r.stored b with rem := 0#9, phase := .frameReady } := by
  rw [Receive.accept_body hphase, if_pos hrem]

/-- Settles O18: the invariant makes the bytes held structurally sound, and their number the one the length byte declares. -/
theorem rxByteCompletesTheFrame : Obligations.RxByteCompletesTheFrame := by
  intro s b hinv hlive hphase hrem m n
  have hexec := exec_rxByte_of_not_timedOut hlive (hinv.not_stopsOn b)
  obtain ⟨-, hrx, hwf, -⟩ := hinv
  have hsound := hrx.completed_sound hwf hphase hrem b
  obtain ⟨-, -, hbody, -⟩ := hrx
  obtain ⟨hlow, hhigh, -, -, -, -, -, -, hlen⟩ := hbody hphase
  have hn : ((s.rx.stored b).buf.read 6).toNat = n := rfl
  have hheld : s.rx.cur.toNat + 1 = n + 9 := by
    have hrem1 : s.rx.rem.toNat = 1 := by rw [hrem]; rfl
    rw [Receive.read_stored hwf, if_neg (by omega)] at hn
    omega
  have hcur : (s.rx.stored b).cur.toNat = n + 9 := by rw [Receive.stored_cur_toNat (by omega), hheld]
  rw [hheld] at hsound
  rw [Receive.accept_last (r := s.rx.stamp s.now) hphase hrem,
    complete_of_sound (r := { (s.rx.stamp s.now).stored b with rem := 0#9, phase := .frameReady }) hcur hsound hn] at hexec
  exact hexec

/-! ### The events of a step (R144) -/

/-- A byte raises no event, or RX_OVERSIZE, or it is the last of a body and raises no diagnostic. -/
theorem Receive.accept_events (p : Params) (b : Byte) (r : Receive) :
    (r.accept p b).2 = Events.none ∨ (r.accept p b).2 = { frame := none, diag := some .rxOversize } ∨
    (r.phase = .readBody ∧ r.rem = 1#9 ∧ (r.accept p b).2.diag = none) := by
  cases hphase : r.phase with
  | awaitStart =>
    by_cases hmark : r.prev = 0xAA#8 ∧ b = 0x55#8
    · obtain ⟨hprev, rfl⟩ := hmark
      exact .inl (by rw [Receive.accept_marker hphase hprev])
    · exact .inl (by rw [Receive.accept_hunt hphase hmark])
  | readHeader =>
    rw [Receive.accept_header hphase]
    by_cases hlast : r.cur = 6#9
    · rw [if_pos hlast]
      rcases headerComplete_cases p (r.stored b) with ⟨-, heq⟩ | ⟨-, heq⟩
      · exact .inr (.inl (by rw [heq]))
      · exact .inl (by rw [heq])
    · exact .inl (by rw [if_neg hlast])
  | readBody =>
    by_cases hlast : r.rem = 1#9
    · exact .inr (.inr ⟨rfl, hlast, by rw [Receive.accept_last hphase hlast]; rfl⟩)
    · exact .inl (by rw [Receive.accept_body hphase, if_neg hlast])
  | frameReady => exact .inl (by simp only [Receive.accept, hphase])

/-- The events R144 allows the outputs of one step: none, one of the two synchronizer diagnostics, or a frame. -/
def Outputs.OneEvent (o : Outputs) : Prop :=
  (o.frame = .none ∨ o.diag = .none) ∧ (o.diag = .none ∨ o.diag = some .rxTimeout ∨ o.diag = some .rxOversize)

theorem Outputs.oneEvent_of_no_diag {o : Outputs} (h : o.diag = .none) : o.OneEvent := ⟨.inr h, .inl h⟩

theorem Outputs.oneEvent_rxTimeout : Outputs.OneEvent (Events.outputs { frame := .none, diag := some .rxTimeout }) :=
  ⟨.inl rfl, .inr (.inl rfl)⟩

theorem Receive.accept_oneEvent (p : Params) (b : Byte) (r : Receive) : (r.accept p b).2.outputs.OneEvent := by
  rcases r.accept_events p b with heq | heq | ⟨-, -, hdiag⟩
  · exact Outputs.oneEvent_of_no_diag (congrArg Events.diag heq)
  · rw [heq]
    exact ⟨.inl rfl, .inr (.inr rfl)⟩
  · exact Outputs.oneEvent_of_no_diag hdiag

/-- Settles O23: only TIME_CHECK and RX_BYTE raise a diagnostic (R34), and each of them raises one event at most. -/
theorem atMostOneEventPerStep : Obligations.AtMostOneEventPerStep := by
  intro s t hstep
  change t.out.OneEvent
  obtain ⟨_, _, i, -, hi, hexec⟩ := step_cases hstep
  obtain ⟨-, hsource, -⟩ := exec_comeFrom (decodeCommand_format hi) hexec
  by_cases hdiag : t.out.diag = none
  case pos => exact Outputs.oneEvent_of_no_diag hdiag
  case neg =>
    rcases hsource hdiag with rfl | ⟨b, rfl⟩
    · rcases execTimeCheck_cases (s.sample _ _) with ⟨-, heq⟩ | ⟨-, heq⟩ <;> cases heq.symm.trans hexec
      · exact Outputs.oneEvent_rxTimeout
      · exact absurd rfl hdiag
    · rcases exec_rxByte_cases hexec with ⟨-, rfl⟩ | ⟨-, rfl⟩
      · exact Outputs.oneEvent_rxTimeout
      · exact Receive.accept_oneEvent _ _ _

/-! ### After a frame (R131, R231) -/

/-- A frame is emitted only by the last body byte, in time. -/
theorem lastByte_of_frame {b : Byte} {s t : State} (h : exec (.rxByte b) s = .next t) (hframe : t.out.frame ≠ none) :
    ¬s.TimedOut ∧ s.rx.phase = .readBody ∧ s.rx.rem = 1#9 := by
  rcases exec_rxByte_cases h with ⟨-, rfl⟩ | ⟨hlive, rfl⟩
  · exact absurd rfl hframe
  · rw [State.finishRx_out, Events.outputs_frame] at hframe
    rcases (s.rx.stamp s.now).accept_events s.params b with heq | heq | ⟨hphase, hrem, -⟩
    · exact absurd (by rw [heq]; rfl) hframe
    · exact absurd (by rw [heq]) hframe
    · exact ⟨hlive, hphase, hrem⟩

/-- The last body byte is not remembered: the frame reset clears `prev`, whether or not the frame is emitted. -/
theorem rx_after_lastByte {b : Byte} {s t : State} (h : exec (.rxByte b) s = .next t) (hlive : ¬s.TimedOut)
    (hphase : s.rx.phase = .readBody) (hrem : s.rx.rem = 1#9) : t.rx.phase = .awaitStart ∧ t.rx.prev = 0x00#8 := by
  rcases exec_rxByte_cases h with ⟨hlate, -⟩ | ⟨-, rfl⟩
  · exact absurd hlate hlive
  · rw [State.finishRx_rx, Receive.accept_last (r := s.rx.stamp s.now) hphase hrem, complete_record]
    exact ⟨rfl, rfl⟩

/-- Settles O25: by O14 the 0x55 is hunted with `prev` cleared. -/
theorem frameEndIsNoMarkerStart : Obligations.FrameEndIsNoMarkerStart := by
  intro s t u b hexec hlast hrx
  obtain ⟨hlive, hphase, hrem⟩ := hlast.elim (lastByte_of_frame hexec) id
  obtain ⟨hawait, hprev⟩ := rx_after_lastByte hexec hlive hphase hrem
  rw [← hrx] at hawait hprev
  obtain ⟨-, hhunt⟩ := rxByteHuntsForTheMarker u 0x55#8 hawait
  exact ⟨_, hhunt (by simp [hprev]), hawait, rfl⟩

end Sys2Proof.Machine

namespace Sys2Proof.Machine

/-! ## Runs without an output (41_synchronizer.md R140, R142) -/

/-- `n` steps lead from a state to another, and none of them has an output; `SilentRun.run_eq` and `SilentRun.outputTrace_add` tie
it to the model. -/
inductive SilentRun : Nat → State → State → Prop
  | refl (s : State) : SilentRun 0 s s
  | head {n : Nat} {s t u : State} (hstep : step s = .next t) (hout : t.out = Outputs.none) (hrun : SilentRun n t u) :
    SilentRun (n + 1) s u

theorem SilentRun.trans {m n : Nat} {s t u : State} (h : SilentRun m s t) (h' : SilentRun n t u) : SilentRun (n + m) s u := by
  induction h with
  | refl => exact h'
  | head hstep hout _ ih => exact .head hstep hout (ih h')

theorem SilentRun.run_eq {n : Nat} {s u : State} (h : SilentRun n s u) : Sys2Proof.core.run n s = .next u := by
  induction h with
  | refl => rfl
  | head hstep _ _ ih => exact (core_run_succ hstep _).trans ih

theorem outputTrace_succ {s t : State} (hstep : step s = .next t) (n : Nat) :
    outputTrace (n + 1) s = t.out :: outputTrace n t := by
  rw [outputTrace, hstep]

/-- The trace of a run that begins without an output. -/
theorem SilentRun.outputTrace_add {n : Nat} {s u : State} (h : SilentRun n s u) (m : Nat) :
    outputTrace (n + m) s = List.replicate n Outputs.none ++ outputTrace m u := by
  induction h with
  | refl => rw [Nat.zero_add]; rfl
  | head hstep hout _ ih => rw [Nat.succ_add, outputTrace_succ hstep, ih, hout]; rfl

theorem SilentRun.outputTrace_eq {n : Nat} {s u : State} (h : SilentRun n s u) :
    outputTrace n s = List.replicate n Outputs.none :=
  (h.outputTrace_add 0).trans (List.append_nil _)

/-! ### Bytes of a body (R135, R140) -/

/-- `r'` has taken the given bytes as body bytes since `r`: they are counted by `cur` and `rem` and stand in the buffer from the old
cursor on, with what was there below it. -/
structure Receive.TookBody (bytes : List Byte) (r r' : Receive) : Prop where
  phase : r'.phase = .readBody
  cur : r'.cur.toNat = r.cur.toNat + bytes.length
  rem : r'.rem.toNat + bytes.length = r.rem.toNat
  stored : ∀ i, i < bytes.length → r'.buf.read (r.cur.toNat + i) = byteAt bytes i
  below : ∀ i, i < r.cur.toNat → r'.buf.read i = r.buf.read i

theorem Receive.TookBody.nil {r : Receive} (hphase : r.phase = .readBody) : r.TookBody [] r :=
  ⟨hphase, rfl, rfl, fun _ hi => absurd hi (Nat.not_lt_zero _), fun _ _ => rfl⟩

/-- The byte taken first lies below the cursor while the others are taken. -/
theorem Receive.TookBody.cons {b : Byte} {bytes : List Byte} {r r' r'' : Receive} (h : r.TookBody [b] r')
    (h' : r'.TookBody bytes r'') : r.TookBody (b :: bytes) r'' := by
  have hcur : r'.cur.toNat = r.cur.toNat + 1 := h.cur
  have hrem : r'.rem.toNat + 1 = r.rem.toNat := h.rem
  refine ⟨h'.phase, ?_, ?_, fun i hi => ?_, fun i hi => ?_⟩
  · rw [h'.cur, hcur, List.length_cons]; omega
  · rw [← hrem, ← h'.rem, List.length_cons]; omega
  · cases i with
    | zero => exact (h'.below _ (by omega)).trans (h.stored 0 Nat.one_pos)
    | succ i =>
      have hread := h'.stored i (Nat.lt_of_succ_lt_succ hi)
      rwa [hcur, Nat.add_right_comm] at hread
  · exact (h'.below i (by omega)).trans (h.below i hi)

/-- The time of the byte is no part of what is taken. -/
theorem Receive.TookBody.of_stampedAt {bytes : List Byte} {now : Nat} {s : State} {r' : Receive}
    (h : (s.stampedAt now).TookBody bytes r') : s.rx.TookBody bytes r' :=
  ⟨h.phase, h.cur, h.rem, h.stored, h.below⟩

/-- A body byte that is not the last is taken with no event. -/
theorem Receive.Inv.tookBody_byte {p : Params} {r : Receive} (h : r.Inv p) (hwf : r.buf.wf p.bufCap = true)
    (hphase : r.phase = .readBody) (hmore : 1 < r.rem.toNat) (b : Byte) :
    ∃ r', r.accept p b = (r', Events.none) ∧ r.TookBody [b] r' := by
  obtain ⟨-, -, hbody, -⟩ := h
  obtain ⟨-, hhigh, -⟩ := hbody hphase
  have hne : r.rem ≠ 1#9 := by rintro h1; simp [h1] at hmore
  have hread := Receive.read_stored (b := b) hwf
  refine ⟨_, (Receive.accept_body hphase).trans (if_neg hne), hphase, Receive.stored_cur_toNat (b := b) (by omega), ?_, ?_, ?_⟩
  · show (r.rem - 1#9).toNat + 1 = r.rem.toNat
    bv_omega
  · intro i hi
    obtain rfl : i = 0 := Nat.lt_one_iff.mp hi
    exact (hread _).trans (if_pos rfl)
  · exact fun i hi => (hread i).trans (if_neg hi.ne)

/-- Fewer bytes than a body still expects, each in time, are taken one a step with no output. -/
theorem State.Inv.silentRun_body {bytes : List Byte} {times : List Nat} {rest : List Ports} {s : State} (h : s.Inv)
    (hphase : s.rx.phase = .readBody) (hmore : bytes.length < s.rx.rem.toNat) (htimes : times.length = bytes.length)
    (hwindow : withinWindow s.params (s.rx.tLast :: times) = true) (hs : s.script = rxScript (times.zip bytes) ++ rest) :
    ∃ u, SilentRun bytes.length s u ∧ s.rx.TookBody bytes u.rx := by
  induction bytes generalizing times s with
  | nil => exact ⟨s, .refl s, .nil hphase⟩
  | cons b bytes ih =>
    obtain ⟨now, times, rfl⟩ := List.exists_cons_of_length_eq_add_one htimes
    rw [List.length_cons] at hmore htimes
    have hstep := h.step_rx hs (h.not_timedOut_of_withinWindow hwindow b _)
    have hinv' := everyStepKeepsTheInvariant _ _ h hstep
    obtain ⟨-, hsound, hwf, -⟩ := h
    obtain ⟨r', heq, hbyte⟩ :=
      Receive.Inv.tookBody_byte (r := s.stampedAt now) hsound hwf hphase (show 1 < s.rx.rem.toNat by omega) b
    have htook : s.rx.TookBody [b] r' := hbyte.of_stampedAt
    have hmore' : bytes.length < r'.rem.toNat := by
      have hrem : r'.rem.toNat + 1 = s.rx.rem.toNat := htook.rem
      omega
    have htLast := Receive.accept_tLast s.params b (s.stampedAt now)
    rw [heq] at hstep hinv' htLast
    have hwindow' : withinWindow s.params (r'.tLast :: times) = true := by
      obtain ⟨-, hlater⟩ := Bool.and_eq_true_iff.mp hwindow
      rw [htLast]
      exact (withinWindow_mod_cons _ _ _).trans hlater
    obtain ⟨u, hrun, htook'⟩ := ih hinv' htook.phase hmore' (Nat.succ.inj htimes) hwindow' rfl
    exact ⟨u, .head hstep rfl hrun, htook.cons htook'⟩

/-- Settles O26. -/
theorem bodyTakesEveryByteUnseen : Obligations.BodyTakesEveryByteUnseen := by
  intro s times bytes rest hinv hphase hmore htimes hwindow hscript
  obtain ⟨u, hrun, htook⟩ := hinv.silentRun_body hphase hmore htimes hwindow hscript
  exact ⟨hrun.outputTrace_eq, u, hrun.run_eq, htook.phase, htook.cur, Nat.eq_sub_of_add_eq htook.rem, htook.stored, htook.below⟩

/-! ### A delivered frame (R142) -/

/-- Receiving up to a byte short of the frame's end has no output. -/
theorem State.Receiving.silentRun {frame : List Byte} {times : List Nat} {rest : List Ports} (n : Nat) {k : Nat} {s : State}
    (h : s.Receiving frame times rest k) (htimes : times.length = frame.length) (hmore : k + n < frame.length) :
    ∃ u, SilentRun n s u ∧ u.Receiving frame times rest (k + n) := by
  induction n generalizing k s with
  | zero => exact ⟨s, .refl s, h⟩
  | succ n ih =>
    obtain ⟨t, hstep, hout, ht⟩ := h.step_next htimes (by omega)
    obtain ⟨u, hrun, hu⟩ := ih ht (by omega)
    exact ⟨u, .head hstep hout hrun, by rwa [Nat.add_right_comm, Nat.add_assoc] at hu⟩

/-- The two marker bytes from AWAIT_START have no output; that they start the frame is `State.Inv.run_marker`. -/
theorem State.Inv.silentRun_marker {s : State} (h : s.Inv) (hphase : s.rx.phase = .awaitStart) (o t c f : Byte) {d : List Byte}
    (hd : d.length ≤ s.params.maxDataLen) {times : List Nat} (htimes : times.length = d.length + 9)
    (hwindow : withinWindow s.params times = true) {rest : List Ports}
    (hs : s.script = rxScript (times.zip (serialize o t c f (BitVec.ofNat 8 d.length) d)) ++ rest) :
    ∃ u, SilentRun 2 s u ∧ u.Receiving (serialize o t c f (BitVec.ofNat 8 d.length) d) times rest 2 := by
  obtain ⟨w, hmarker, hw⟩ := h.run_marker hphase o t c f hd htimes hwindow hs
  match times, htimes with
  | t0 :: t1 :: ts, _ =>
    rw [serialize_eq_marker_cons] at hs
    obtain ⟨u, hstep, hout, hinv, -, hscript, hphase, hprev⟩ := h.step_mark0 hphase hs
    obtain ⟨v, hstep', hout', -⟩ := hinv.step_mark1 hphase hprev hscript [0xAA#8, 0x55#8] rfl rfl
    have hrun : SilentRun 2 s v := .head hstep hout (.head hstep' hout' (.refl v))
    cases hrun.run_eq.symm.trans (hmarker 0)
    exact ⟨_, hrun, hw⟩

/-- A buffer that holds a vector's bytes from index 0 has the vector as its first bytes. -/
theorem Memory.prefixBytes_eq {m : Memory} {frame : List Byte} (h : ∀ i, i < frame.length → m.read i = byteAt frame i) :
    m.prefixBytes frame.length = frame :=
  List.ext_getElem (m.length_prefixBytes _) fun i _ hi => by
    rw [← byteAt_eq_getElem hi, ← h i hi, ← byteAt_eq_getElem, Memory.byteAt_prefixBytes m hi]

/-- Held bytes that VALIDATE_fn takes are emitted as it parses them. -/
theorem complete_of_valid {r : Receive} {frame : List Byte} {fr : FrameRecord} (hheld : r.buf.prefixBytes r.cur.toNat = frame)
    (hvalid : validateFn frame = (.ok, some fr)) : complete r = (r.frameReset, { frame := some fr, diag := none }) := by
  rw [complete_eq, hheld, hvalid]
  rfl

/-- The frame's last byte emits what VALIDATE_fn parses from the frame: in the invariant `cur + rem` is the frame's length. -/
theorem Receive.Holds.after_last {p : Params} {frame : List Byte} {k : Nat} {r : Receive} {fr : FrameRecord} (h : r.Holds frame k)
    (hinv : r.Inv p) (hwf : r.buf.wf p.bufCap = true) (hfits : FrameFits p frame) (hlast : k + 1 = frame.length)
    (hvalid : validateFn frame = (.ok, some fr)) : (r.accept p (byteAt frame k)).2 = { frame := some fr, diag := none } := by
  obtain ⟨hlength, -⟩ := hfits
  obtain ⟨-, -, hbody, -⟩ := hinv
  have hphase : r.phase = .readBody := by rw [h.phase, if_neg (by omega)]
  obtain ⟨-, hhigh, -, -, -, -, -, -, hsum⟩ := hbody hphase
  rw [h.cur] at hhigh hsum
  have hrem : r.rem = 1#9 := by
    refine BitVec.eq_of_toNat_eq (show r.rem.toNat = 1 from ?_)
    rw [h.bytes 6 (by omega)] at hsum
    omega
  have hheld : (r.stored (byteAt frame k)).buf.prefixBytes (r.stored (byteAt frame k)).cur.toNat = frame := by
    rw [h.stored_cur (by omega), hlast]
    exact Memory.prefixBytes_eq fun i hi => h.read_stored hwf i (by omega)
  rw [Receive.accept_last hphase hrem,
    complete_of_valid (r := { r.stored (byteAt frame k) with rem := 0#9, phase := .frameReady }) hheld hvalid]

/-- The step that delivers the last byte of a frame that VALIDATE_fn takes. -/
theorem State.Receiving.step_last {frame : List Byte} {times : List Nat} {rest : List Ports} {k : Nat} {s : State}
    {fr : FrameRecord} (h : s.Receiving frame times rest k) (htimes : times.length = frame.length) (hlast : k + 1 = frame.length)
    (hvalid : validateFn frame = (.ok, some fr)) :
    ∃ t, step s = .next t ∧ t.out = { Outputs.none with frame := some fr } := by
  obtain ⟨hinv, hholds, hfits, hwindow, hscript⟩ := h
  rw [List.drop_eq_getElem_cons (by omega : k < times.length)] at hwindow hscript
  rw [List.drop_eq_getElem_cons (by omega : k < frame.length), ← byteAt_eq_getElem, rxScript_zip_cons,
    List.cons_append] at hscript
  have hstep := hinv.step_rx hscript (hinv.not_timedOut_of_withinWindow hwindow _ _)
  obtain ⟨-, hsound, hwf, -⟩ := hinv
  have hevents := (hholds.stampedAt times[k]).after_last hsound hwf hfits hlast hvalid
  exact ⟨_, hstep, congrArg Events.outputs hevents⟩

/-- Settles O28: two silent steps for the marker, silent steps to the last byte but one, and the frame with the last. -/
theorem deliveredFrameIsEmittedOnceAtItsLastByte : Obligations.DeliveredFrameIsEmittedOnceAtItsLastByte := by
  intro s o t c f d times rest hinv hphase hd htimes hwindow hscript
  have hlen : (BitVec.ofNat 8 d.length).toNat = d.length := by
    obtain ⟨⟨hmax, -⟩, -⟩ := hinv
    rw [BitVec.toNat_ofNat, Nat.mod_eq_of_lt (by omega)]
  have htimes' : times.length = (serialize o t c f (BitVec.ofNat 8 d.length) d).length := by rw [htimes, length_serialize]
  obtain ⟨v, hmarker, hv⟩ := hinv.silentRun_marker hphase o t c f hd htimes hwindow hscript
  obtain ⟨w, hrun, hw⟩ := hv.silentRun (d.length + 6) htimes' (by rw [length_serialize]; omega)
  obtain ⟨x, hstep, hout⟩ := hw.step_last htimes' (by rw [length_serialize]; omega) (validateFn_serialize hlen)
  have htrace := (hmarker.trans hrun).outputTrace_add 1
  rw [outputTrace_succ hstep, hout] at htrace
  exact htrace

end Sys2Proof.Machine

namespace Sys2Proof.Machine

/-! ## TELEM_DECODE and its operand (42_telemetry.md R160, R161) -/

@[simp] theorem length_telOperand (s : State) : s.telOperand.length = s.ports.telLen.toNat := length_portBytes _ _

theorem byteAt_telOperand {s : State} {i : Nat} (h : i < s.ports.telLen.toNat) :
    byteAt s.telOperand i = byteAt s.ports.telPayload i :=
  byteAt_portBytes _ h

/-- A word of the operand is two bytes of the port, high byte first (R162). -/
theorem be16_telOperand {s : State} {off : Nat} (h : off + 2 ≤ s.ports.telLen.toNat) :
    be16 s.telOperand off = byteAt s.ports.telPayload off ++ byteAt s.ports.telPayload (off + 1) := by
  rw [be16, byteAt_telOperand (by omega), byteAt_telOperand (by omega)]

theorem exec_telemDecode (v : Variant) (s : State) :
    exec (.telemDecode v) s = .next { s with
      out := { Outputs.none with tel := some (decodeTelemetry s.params v s.telOperand) } } :=
  rfl

/-- A payload under the minimum has no record. -/
theorem exec_telemDecode_short {s : State} (v : Variant) (h : s.ports.telLen.toNat < s.params.minTelemLen) :
    exec (.telemDecode v) s = .next { s with
      out := { Outputs.none with tel := some { status := .shortPayload, record := none } } } := by
  rcases decodeTelemetry_cases s.params v s.telOperand with ⟨-, heq⟩ | ⟨hlen, -⟩
  · rw [exec_telemDecode, heq]
  · rw [length_telOperand] at hlen
    omega

/-- Any other payload has the record of its layout. -/
theorem exec_telemDecode_accepted {s : State} (v : Variant) (h : s.params.minTelemLen ≤ s.ports.telLen.toNat) :
    exec (.telemDecode v) s = .next { s with
      out := { Outputs.none with tel := some { status := .ok, record := some (telemetryRecord s.params v s.telOperand) } } } := by
  rcases decodeTelemetry_cases s.params v s.telOperand with ⟨hlen, -⟩ | ⟨-, heq⟩
  · rw [length_telOperand] at hlen
    omega
  · rw [exec_telemDecode, heq]

/-- The same with the default minimum. -/
theorem exec_telemDecode_accepted_defaults {s : State} (v : Variant) (hp : s.params = Config.defaults)
    (h : 44 ≤ s.ports.telLen.toNat) :
    exec (.telemDecode v) s = .next { s with
      out := { Outputs.none with
        tel := some { status := .ok, record := some (telemetryRecord Config.defaults v s.telOperand) } } } := by
  rw [← hp]
  exact exec_telemDecode_accepted v (by rw [hp]; exact h)

/-! ## The word fields (R162 to R166, R169) -/

theorem extractField_of_offset_none {p : Params} {v : Variant} {payload : List Byte} {f : TelField}
    (h : fieldOffset p v f = none) : extractField p v payload f = none := by
  rw [extractField, h]

theorem extractField_of_offset {p : Params} {v : Variant} {payload : List Byte} {f : TelField} {off : Nat}
    (h : fieldOffset p v f = some off) :
    extractField p v payload f =
      if off + 2 ≤ payload.length then some { raw := be16 payload off, scale := fieldScale p f } else none := by
  rw [extractField, h]

/-- A field is present when its variant has it and the payload holds both its bytes. -/
theorem extractField_isSome_iff {p : Params} {v : Variant} {payload : List Byte} {f : TelField} :
    (extractField p v payload f).isSome = true ↔ ∃ off, fieldOffset p v f = some off ∧ off + 2 ≤ payload.length := by
  simp [Option.isSome_iff_exists, extractField_eq_some]

theorem extractField_isSome_of_offset {p : Params} {v : Variant} {payload : List Byte} {f : TelField} {off : Nat}
    (h : fieldOffset p v f = some off) : (extractField p v payload f).isSome = true ↔ off + 2 ≤ payload.length := by
  simp [extractField_isSome_iff, h]

/-- Settles O37: both answers of the decoder, and the word of a field by whether its variant has it and the payload reaches it. -/
theorem telemDecodeExtractsTheLayout : Obligations.TelemDecodeExtractsTheLayout := by
  refine fun s v => ⟨exec_telemDecode_short v, fun h => ⟨_, exec_telemDecode_accepted v h, rfl, fun field => ?_⟩⟩
  rw [telemetryRecord_get]
  split
  case h_1 hoff => rw [extractField_of_offset_none hoff, Option.map_none]
  case h_2 off hoff =>
    rw [extractField_of_offset hoff, length_telOperand]
    split
    next hin => rw [Option.map_some, be16_telOperand hin]
    next => rfl

/-- Settles O43: a present field carries its field's scale, and no scale of valid parameters is 0. -/
theorem fieldValueIsTheExactQuotient : Obligations.FieldValueIsTheExactQuotient := by
  refine ⟨fun field => by cases field <;> rfl, fun p field raw hp => ?_, fun s v hp h => ?_⟩
  · exact TelWord.value_mul_scale ⟨raw, fieldScale p field⟩ (fieldScale_pos hp field)
  · refine ⟨_, exec_telemDecode_accepted v h, fun field w hw => ?_⟩
    rw [telemetryRecord_get] at hw
    have hscale := extractField_scale hw
    have hvalue : w.value = fieldValue s.params field w.raw := by rw [fieldValue, ← hscale]
    exact ⟨hscale, hvalue, w.value_mul_scale (hscale ▸ fieldScale_pos hp field)⟩

/-! ## The layouts (R163, R164) -/

/-- Settles O38, row by row; EDAY_SCALE stays unevaluated. -/
theorem singlePhaseLayoutTable : Obligations.SinglePhaseLayoutTable := by
  refine ⟨rfl, by decide, fun row hrow => ?_⟩
  fin_cases hrow <;> exact ⟨rfl, rfl⟩

/-- Settles O39, row by row. -/
theorem threePhaseLayoutTable : Obligations.ThreePhaseLayoutTable := by
  refine ⟨rfl, fun row hrow => ?_⟩
  fin_cases hrow <;> exact ⟨rfl, rfl⟩

/-- The end of the undecoded region; in both layouts two words follow it. -/
def regionEnd (p : Params) (v : Variant) : Nat := (reservedRegion p v).1 + (reservedRegion p v).2

/-- The layout's end (R168): 48 and 68 with the default parameters. -/
def layoutEnd (p : Params) (v : Variant) : Nat := regionEnd p v + 4

theorem layoutEnd_defaults (v : Variant) : layoutEnd Config.defaults v = if v = .single then 48 else 68 := by cases v <;> rfl

theorem fieldOffset_temp (p : Params) (v : Variant) : fieldOffset p v .temp = some (regionEnd p v) := by cases v <;> rfl

theorem fieldOffset_eDay (p : Params) (v : Variant) : fieldOffset p v .eDay = some (regionEnd p v + 2) := by
  cases v <;> simp only [fieldOffset, regionEnd, reservedRegion, Option.some.injEq] <;> omega

/-- The nine fields of both layouts lie before the undecoded region. -/
theorem fieldOffset_common (p : Params) (v : Variant) :
    ∀ f ∈ [TelField.vpv1, .vpv2, .ipv1, .ipv2, .vac1, .iac1, .fac1, .pac, .workMode],
      ∃ off, fieldOffset p v f = some off ∧ off + 2 ≤ (reservedRegion p v).1 := by
  cases v <;> simp [fieldOffset, reservedRegion]

/-- The phase-2 and phase-3 fields lie before the undecoded region of the three-phase layout and in no other. -/
theorem fieldOffset_phase23 (p : Params) :
    ∀ f ∈ [TelField.vac2, .vac3, .iac2, .iac3, .fac2, .fac3],
      fieldOffset p .single f = none ∧ ∃ off, fieldOffset p .three f = some off ∧ off + 2 ≤ 30 := by
  simp [fieldOffset]

/-- A field is in both layouts, in the three-phase layout only, or after the undecoded region. -/
theorem telField_groups (f : TelField) :
    f ∈ [TelField.vpv1, .vpv2, .ipv1, .ipv2, .vac1, .iac1, .fac1, .pac, .workMode] ∨
      f ∈ [TelField.vac2, .vac3, .iac2, .iac3, .fac2, .fac3] ∨ f = .temp ∨ f = .eDay := by
  cases f <;> decide

/-- No field reaches past the layout's end. -/
theorem fieldOffset_le_layoutEnd {p : Params} {v : Variant} {f : TelField} {off : Nat} (h : fieldOffset p v f = some off) :
    off + 2 ≤ layoutEnd p v := by
  rw [layoutEnd]
  rcases telField_groups f with hf | hf | rfl | rfl
  · obtain ⟨off', hoff, hend⟩ := fieldOffset_common p v f hf
    cases hoff.symm.trans h
    rw [regionEnd]
    omega
  · obtain ⟨hsingle, off', hthree, hend⟩ := fieldOffset_phase23 p f hf
    cases v with
    | single => cases hsingle.symm.trans h
    | three =>
      cases hthree.symm.trans h
      rw [regionEnd, reservedRegion]
      omega
  · cases (fieldOffset_temp p v).symm.trans h
    omega
  · cases (fieldOffset_eDay p v).symm.trans h
    omega

/-! ## The undecoded region (R167) -/

/-- A part of a vector that ends inside it, byte by byte: no byte when it ends before its start. -/
theorem slice_eq_map_range_of_le {p : List Byte} {i j : Nat} (h : j ≤ p.length) :
    slice p i j = (List.range (j - i)).map fun k => byteAt p (i + k) := by
  by_cases hij : i ≤ j
  · have hslice := slice_eq_map_range (p := p) (i := i) (n := j - i) (by omega)
    rwa [Nat.add_sub_cancel' hij] at hslice
  · rw [slice, Nat.sub_eq_zero_of_le (by omega), List.take_zero, List.range_zero, List.map_nil]

/-- The undecoded bytes of the operand are the port's, from the region's start to where the region or the payload ends. -/
theorem reservedBytes_telOperand (p : Params) (v : Variant) (s : State) :
    reservedBytes p v s.telOperand =
      (List.range (min s.ports.telLen.toNat (regionEnd p v) - (reservedRegion p v).1)).map fun i =>
        byteAt s.ports.telPayload ((reservedRegion p v).1 + i) := by
  rw [reservedBytes, slice_eq_map_range_of_le (Nat.min_le_left _ _), length_telOperand]
  refine List.map_congr_left fun i hi => byteAt_telOperand ?_
  have := List.mem_range.1 hi
  omega

theorem byteAt_map_range (g : Nat → Byte) {i n : Nat} (h : i < n) : byteAt ((List.range n).map g) i = g i := by
  simp [byteAt, h]

/-- Settles O57: the record's undecoded bytes, read from the port. -/
theorem reservedRegionFollowsTheParameters : Obligations.ReservedRegionFollowsTheParameters := by
  refine fun s v h => ⟨by cases v <;> rfl, _, exec_telemDecode_accepted v h, ?_⟩
  exact reservedBytes_telOperand s.params v s

theorem reservedRegion_defaults_start (v : Variant) :
    (reservedRegion Config.defaults v).1 = if v = .single then 18 else 30 := by cases v <;> rfl

theorem regionEnd_defaults (v : Variant) : regionEnd Config.defaults v = if v = .single then 44 else 64 := by cases v <;> rfl

/-- Settles O40: the region of O57 at the default skips, its bytes one by one. -/
theorem reservedRegionIsCopiedVerbatim : Obligations.ReservedRegionIsCopiedVerbatim := by
  intro s v hp h
  refine ⟨_, exec_telemDecode_accepted_defaults v hp h, ?_⟩
  have hreserved := reservedBytes_telOperand Config.defaults v s
  rw [reservedRegion_defaults_start, regionEnd_defaults] at hreserved
  simp only [telemetryRecord, hreserved]
  exact ⟨by simp, fun i hi => byteAt_map_range _ hi⟩

/-! ## Presence (R170) -/

/-- Settles O41: each presence is that of the field's offset. -/
theorem fieldPresenceByLengthAndVariant : Obligations.FieldPresenceByLengthAndVariant := by
  intro s v hp
  refine ⟨fun h => exec_telemDecode_short v (by rw [hp]; exact h), fun h => ?_⟩
  refine ⟨_, exec_telemDecode_accepted_defaults v hp h, rfl, fun f hf => ?_, fun f hf => ?_, ?_, ?_, ?_⟩
  · obtain ⟨off, hoff, hend⟩ := fieldOffset_common Config.defaults v f hf
    rw [reservedRegion_defaults_start] at hend
    rw [telemetryRecord_get, extractField_isSome_of_offset hoff, length_telOperand]
    split at hend <;> omega
  · obtain ⟨hsingle, off, hthree, hend⟩ := fieldOffset_phase23 Config.defaults f hf
    rw [telemetryRecord_get]
    cases v with
    | single => simp [extractField_of_offset_none hsingle]
    | three =>
      rw [extractField_isSome_of_offset hthree, length_telOperand]
      exact iff_of_true (by omega) rfl
  · refine (extractField_isSome_of_offset (fieldOffset_temp _ v)).trans ?_
    rw [regionEnd_defaults, length_telOperand]
    split <;> rfl
  · refine (extractField_isSome_of_offset (fieldOffset_eDay _ v)).trans ?_
    rw [regionEnd_defaults, length_telOperand]
    split <;> rfl
  · show (reservedBytes Config.defaults v s.telOperand).length ≤ 34
    rw [reservedBytes_telOperand, reservedRegion_defaults_start, regionEnd_defaults, List.length_map, List.length_range]
    split <;> omega

/-! ## Bytes past the layout (R168) -/

/-- A record is its variant, its word fields and its undecoded bytes. -/
theorem TelRecord.ext_get {r t : TelRecord} (hvariant : r.variant = t.variant) (hreserved : r.reserved = t.reserved)
    (hget : ∀ f, r.get f = t.get f) : r = t := by
  cases r
  cases t
  simp only [TelRecord.mk.injEq]
  exact ⟨hvariant, hget .vpv1, hget .vpv2, hget .ipv1, hget .ipv2, hget .vac1, hget .vac2, hget .vac3, hget .iac1, hget .iac2,
    hget .iac3, hget .fac1, hget .fac2, hget .fac3, hget .pac, hget .workMode, hreserved, hget .temp, hget .eDay⟩

section agreeing

variable {p : Params} {v : Variant} {s u : State} (hs : layoutEnd p v ≤ s.ports.telLen.toNat)
  (hu : layoutEnd p v ≤ u.ports.telLen.toNat)
  (hbytes : ∀ i, i < layoutEnd p v → byteAt s.ports.telPayload i = byteAt u.ports.telPayload i)

include hs hu hbytes

/-- A field is a word below the layout's end. -/
theorem extractField_eq_of_agree (f : TelField) : extractField p v s.telOperand f = extractField p v u.telOperand f := by
  cases hoff : fieldOffset p v f with
  | none => rw [extractField_of_offset_none hoff, extractField_of_offset_none hoff]
  | some off =>
    have hend := fieldOffset_le_layoutEnd hoff
    have hword : be16 s.telOperand off = be16 u.telOperand off := by
      rw [be16_telOperand (by omega), be16_telOperand (by omega), hbytes off (by omega), hbytes (off + 1) (by omega)]
    rw [extractField_of_offset hoff, extractField_of_offset hoff, length_telOperand, length_telOperand, if_pos (by omega),
      if_pos (by omega), hword]

/-- Payloads that reach the layout's end hold the whole undecoded region. -/
theorem reservedBytes_eq_of_agree : reservedBytes p v s.telOperand = reservedBytes p v u.telOperand := by
  have hend : regionEnd p v ≤ layoutEnd p v := Nat.le_add_right _ _
  rw [reservedBytes_telOperand, reservedBytes_telOperand, Nat.min_eq_right (by omega), Nat.min_eq_right (by omega)]
  refine List.map_congr_left fun i hi => hbytes _ ?_
  have := List.mem_range.1 hi
  omega

/-- The record is a function of the bytes below the layout's end. -/
theorem telemetryRecord_eq_of_agree : telemetryRecord p v s.telOperand = telemetryRecord p v u.telOperand :=
  TelRecord.ext_get rfl (reservedBytes_eq_of_agree hs hu hbytes) fun f => by
    rw [telemetryRecord_get, telemetryRecord_get, extractField_eq_of_agree hs hu hbytes f]

end agreeing

/-- Settles O42: both decodes accept, and their records agree. -/
theorem bytesPastTheLayoutAreIgnored : Obligations.BytesPastTheLayoutAreIgnored := by
  intro s u v hps hpu hs hu hbytes
  have hmin : 44 ≤ if v = .single then 48 else 68 := by split <;> omega
  have hrecord : telemetryRecord Config.defaults v s.telOperand = telemetryRecord Config.defaults v u.telOperand := by
    rw [← layoutEnd_defaults] at hs hu hbytes
    exact telemetryRecord_eq_of_agree hs hu hbytes
  refine ⟨_, exec_telemDecode_accepted_defaults v hps (by omega), ?_⟩
  rw [hrecord]
  exact exec_telemDecode_accepted_defaults v hpu (by omega)

end Sys2Proof.Machine

namespace Sys2Proof.Machine

/-! ## Completion (60_exceptions.md R200, R207)

Only `RX_BYTE` has a store that can fail, and inside the invariant it never does. So an instruction run from a state of the
invariant answers, unless it is one of the two reserved rows, and those refuse rather than fault. -/

/-- The codec, the telemetry decoder and the FRAME rows complete from every state. -/
theorem exec_completes_of_pure {i : Instr} (s : State)
    (hi : i = .encode ∨ i = .validate ∨ (∃ v, i = .telemDecode v) ∨ i.format = .frameCf) : ∃ t, exec i s = .next t := by
  obtain ⟨o, -, -, heq⟩ := exec_pure_cases s hi
  exact ⟨_, heq⟩

/-- Inside the invariant an instruction answers a next state, or it is a reserved row. -/
theorem State.Inv.exec_completes_or_reserved {s : State} (h : s.Inv) (i : Instr) :
    (∃ t, exec i s = .next t) ∨ ∃ x, i = .reservedOp110 x ∨ i = .reservedOp111 x := by
  cases i with
  | timeCheck =>
    rcases execTimeCheck_cases s with ⟨-, heq⟩ | ⟨-, heq⟩
    · exact .inl ⟨_, heq⟩
    · exact .inl ⟨_, heq⟩
  | rxByte b => exact .inl ⟨_, h.execRxByte_eq b⟩
  | reset => exact .inl ⟨_, exec_reset s⟩
  | encode | validate | telemDecode | frameDiscovery | frameRegRequest | frameAddrAssign | frameAddrConfirm | frameRemove
  | frameInfoRequest | frameInfoResponse | frameUnknown =>
    exact .inl (exec_completes_of_pure s (by simp [Instr.format]))
  | reservedOp110 x => exact .inr ⟨x, .inl rfl⟩
  | reservedOp111 x => exact .inr ⟨x, .inr rfl⟩

/-- Settles O50: sampling the ports keeps the invariant, so the decoded operation completes. -/
theorem everyOperationCompletes : Obligations.EveryOperationCompletes := by
  intro s p rest i h hs hi hnot
  rw [step_of_decode hs hi]
  rcases (h.sample p rest).exec_completes_or_reserved i with hnext | ⟨x, hreserved⟩
  · exact hnext
  · obtain ⟨h110, h111⟩ := hnot x
    exact (hreserved.elim h110 h111).elim

/-- Settles O51: a fault could only come from a decoded operation, which either completes or is a reserved row and refuses. -/
theorem noFaultInsideTheInvariant : Obligations.NoFaultInsideTheInvariant := by
  intro s f h hfault
  obtain ⟨p, rest, i, -, -, hexec⟩ := step_fault_cases hfault
  rcases (h.sample p rest).exec_completes_or_reserved i with ⟨t, hnext⟩ | ⟨x, rfl | rfl⟩
  · cases hnext.symm.trans hexec
  · cases hexec
  · cases hexec

/-- Settles O56: the two code tables, entry by entry. -/
theorem statusAndPhaseCodes : Obligations.StatusAndPhaseCodes :=
  ⟨rfl, rfl, rfl, rfl, rfl, rfl, rfl, rfl, rfl, rfl⟩

end Sys2Proof.Machine

namespace Sys2Proof.Machine

/-! ## The timeout is evaluated lazily (70_reset_and_hazards.md R236)

A TIME_CHECK before a byte either finds nothing to do, and the byte meets the same record, or makes the frame reset that the byte
would have made itself (41_synchronizer.md R137). -/

/-- The outputs of the last step are no input of RX_BYTE. -/
@[simp] theorem exec_rxByte_withOut (b : Byte) (s : State) (o : Outputs) :
    exec (.rxByte b) (s.withOut o) = exec (.rxByte b) s := rfl

/-- After a frame reset a byte is hunted with `prev` cleared, so not even 0x55 starts a frame, and it is never late. -/
theorem exec_rxByte_finishRx_frameReset (b : Byte) (s : State) (e : Events) :
    exec (.rxByte b) (s.finishRx s.rx.frameReset e) =
      .next (s.finishRx { s.rx.frameReset with prev := b, tLast := s.now } Events.none) := by
  obtain ⟨-, hhunt⟩ := rxByteHuntsForTheMarker (s.finishRx s.rx.frameReset e) b rfl
  exact hhunt fun ⟨hprev, _⟩ => absurd hprev (by decide : (0x00#8 : Byte) ≠ 0xAA#8)

/-- Settles O20: by O13 the window decides which of the two steps makes the frame reset and reports it. -/
theorem timeCheckBeforeAByteOnlyMovesTheReport : Obligations.TimeCheckBeforeAByteOnlyMovesTheReport := by
  intro s u v b hcheck hbyte
  obtain ⟨hreset, hkeep⟩ := timeCheckTestsTheWindow s
  rcases exec_rxByte_cases hbyte with ⟨hlate, rfl⟩ | ⟨hlive, -⟩
  · obtain rfl := Host.Outcome.next.inj (hcheck.symm.trans (hreset hlate))
    exact ⟨_, exec_rxByte_finishRx_frameReset b s { frame := none, diag := some .rxTimeout }, rfl, rfl, rfl, .inr rfl⟩
  · obtain rfl := Host.Outcome.next.inj (hcheck.symm.trans (hkeep hlive))
    exact ⟨v, (exec_rxByte_withOut b s Outputs.none).trans hbyte, rfl, rfl, rfl, .inl rfl⟩

end Sys2Proof.Machine
